-- ==== Sys2Proof/Word.lean ====
section
/-! DEFINITION. The word types of the SiK link engine.

`spec/00_scope.md` R11: `u8` is 0..255, `u16` is 0..65535, a command word is 32 bits (R101). Quantities the spec
treats as counts, sizes or indexes are natural numbers in this model. -/

namespace Sys2Proof

/-- A command word (R101). -/
abbrev Word := BitVec 32

/-- A byte, the spec's `u8` (R11). -/
abbrev Byte := BitVec 8

/-- A CSR as read, the spec's `u16` (R11, R25). -/
abbrev Half := BitVec 16

end Sys2Proof
end

