-- ==== Sys2Proof/Syntax.lean ====
section
/-! DEFINITION. The 29 commands of `spec/30_encoding.md` R106, one constructor per row of the opcode table.

Operands the spec uses as numbers (sizes, indexes, lengths, register, ring and space numbers) are natural numbers,
"an unsigned number taken from its bits as they stand" (R102); operands that are stored as bytes or register values
are bit vectors; the bit value of ILV.SETBIT is a Bool. `WellFormed.lean` says which numbers an encoding can hold. -/

namespace Sys2Proof

/-- A command (R106). -/
inductive Instr where
  /-- NOP (R130) -/
  | nop
  /-- MEM.RD sp, addr (R132) -/
  | memRd (sp addr : Nat)
  /-- MEM.WR sp, addr, val (R133) -/
  | memWr (sp addr : Nat) (val : Byte)
  /-- CFG.WR r, imm (R134) -/
  | cfgWr (r : Nat) (imm : Half)
  /-- CFG.RD r (R135) -/
  | cfgRd (r : Nat)
  /-- CTL.RESET (R136) -/
  | ctlReset
  /-- ILV.GETBIT n, idx (R186) -/
  | ilvGetbit (n idx : Nat)
  /-- ILV.SETBIT n, v, idx (R187) -/
  | ilvSetbit (n : Nat) (v : Bool) (idx : Nat)
  /-- ILV.GETBYTE n, k (R188) -/
  | ilvGetbyte (n k : Nat)
  /-- ILV.SETBYTE n, k, val (R189) -/
  | ilvSetbyte (n k : Nat) (val : Byte)
  /-- ILV.PHYS n, idx (R185) -/
  | ilvPhys (n idx : Nat)
  /-- FRM.FRAME type, len (R220) -/
  | frmFrame (type : Byte) (len : Nat)
  /-- FRM.DEFRAME (R221) -/
  | frmDeframe
  /-- SCH.TICK (R241) -/
  | schTick
  /-- SCH.HBREQ (R263) -/
  | schHbreq
  /-- SCH.HBCLR (R264) -/
  | schHbclr
  /-- SCH.SUBMIT type, len (R262) -/
  | schSubmit (type : Byte) (len : Nat)
  /-- SCH.RPCLR (R265) -/
  | schRpclr
  /-- RB.PUSH ring, byte (R153) -/
  | rbPush (ring : Nat) (byte : Byte)
  /-- RB.POP ring (R154) -/
  | rbPop (ring : Nat)
  /-- RB.PEEK ring, offset (R155) -/
  | rbPeek (ring offset : Nat)
  /-- RB.FREE ring (R158) -/
  | rbFree (ring : Nat)
  /-- RB.USED ring (R157) -/
  | rbUsed (ring : Nat)
  /-- RB.RESET ring (R159) -/
  | rbReset (ring : Nat)
  /-- RB.PUSHS ring, len (R160) -/
  | rbPushs (ring len : Nat)
  /-- RB.POPS ring, max (R161) -/
  | rbPops (ring max : Nat)
  /-- BR.DRAIN (R307) -/
  | brDrain
  /-- BR.ROOM (R304) -/
  | brRoom
  /-- BR.DELIVER len (R303) -/
  | brDeliver (len : Nat)
deriving DecidableEq, Repr

end Sys2Proof
end

