-- ==== Sys2Proof/WellFormed.lean ====
section
/-! DEFINITION. Which commands a word can hold: every numeric operand fits its field of R101.

Operand values that decode but that a command refuses (a ring above 1, a reserved register number) are well formed:
they raise RangeError when the command runs (R107, R338). -/

namespace Sys2Proof

/-- The operand fits one of the byte fields `a`, `b`, `c`, `n`, `r` of R101. -/
def fitsByte (v : Nat) : Bool := v < 2 ^ 8

/-- The operand fits the 11-bit field `idx` of format B (R101, R102). -/
def fitsIdx (v : Nat) : Bool := v < 2 ^ 11

/-- Every numeric operand of the command fits its field (R101, R102). -/
def Instr.wellFormed : Instr → Bool
  | .nop => true
  | .memRd sp addr => fitsByte sp && fitsByte addr
  | .memWr sp addr _ => fitsByte sp && fitsByte addr
  | .cfgWr r _ => fitsByte r
  | .cfgRd r => fitsByte r
  | .ctlReset => true
  | .ilvGetbit n idx => fitsByte n && fitsIdx idx
  | .ilvSetbit n _ idx => fitsByte n && fitsIdx idx
  | .ilvGetbyte n k => fitsByte n && fitsByte k
  | .ilvSetbyte n k _ => fitsByte n && fitsByte k
  | .ilvPhys n idx => fitsByte n && fitsIdx idx
  | .frmFrame _ len => fitsByte len
  | .frmDeframe => true
  | .schTick => true
  | .schHbreq => true
  | .schHbclr => true
  | .schSubmit _ len => fitsByte len
  | .schRpclr => true
  | .rbPush ring _ => fitsByte ring
  | .rbPop ring => fitsByte ring
  | .rbPeek ring offset => fitsByte ring && fitsByte offset
  | .rbFree ring => fitsByte ring
  | .rbUsed ring => fitsByte ring
  | .rbReset ring => fitsByte ring
  | .rbPushs ring len => fitsByte ring && fitsByte len
  | .rbPops ring max => fitsByte ring && fitsByte max
  | .brDrain => true
  | .brRoom => true
  | .brDeliver len => fitsByte len

end Sys2Proof
end

