-- ==== Sys2Proof/Decode.lean ====
section
/-! DEFINITION. Decoding a command word (`spec/30_encoding.md` R101 to R106), and the encoder.

Decoding is total: every 32-bit word is one command or is rejected by name (R104, R105). Fields are read by the
formula of R11, `w[hi:lo] = (w div 2^lo) mod 2^(hi-lo+1)`. -/

namespace Sys2Proof

/-- Why a word is illegal (R105). Both raise IllegalCommand. -/
inductive DecodeError where
  /-- the opcode is not in R106 -/
  | unassignedOpcode
  /-- a must-be-zero bit of the row is set (R103) -/
  | mustBeZero
deriving DecidableEq, Repr

/-! ## Fields (R102) -/

/-- `w[hi:lo]` of R11. -/
def bitField (w : Word) (hi lo : Nat) : Nat := w.toNat / 2 ^ lo % 2 ^ (hi - lo + 1)

/-- `op = w[31:24]` -/
def opField (w : Word) : Nat := bitField w 31 24

/-- `a = n = r = w[23:16]` -/
def aField (w : Word) : Nat := bitField w 23 16

/-- `b = w[15:8]` -/
def bField (w : Word) : Nat := bitField w 15 8

/-- `c = w[7:0]` -/
def cField (w : Word) : Nat := bitField w 7 0

/-- `v = w[15]` -/
def vField (w : Word) : Nat := bitField w 15 15

/-- The bits 14:11 that format B marks zero. -/
def gapField (w : Word) : Nat := bitField w 14 11

/-- `idx = w[10:0]` -/
def idxField (w : Word) : Nat := bitField w 10 0

/-- `imm = w[15:0]` -/
def immField (w : Word) : Nat := bitField w 15 0

/-- The command, if the must-be-zero part of the word is zero (R103, R105). -/
def zeroOr (mbz : Nat) (i : Instr) : Except DecodeError Instr :=
  if mbz = 0 then .ok i else .error .mustBeZero

/-- The command a word holds (R104 step 1, R105, R106). -/
def decode (w : Word) : Except DecodeError Instr :=
  match opField w with
  | 0x00 => zeroOr (bitField w 23 0) .nop
  | 0x01 => zeroOr (cField w) (.memRd (aField w) (bField w))
  | 0x02 => .ok (.memWr (aField w) (bField w) (BitVec.ofNat 8 (cField w)))
  | 0x08 => .ok (.cfgWr (aField w) (BitVec.ofNat 16 (immField w)))
  | 0x09 => zeroOr (immField w) (.cfgRd (aField w))
  | 0x0F => zeroOr (bitField w 23 0) .ctlReset
  | 0x10 => zeroOr (vField w + gapField w) (.ilvGetbit (aField w) (idxField w))
  | 0x11 => zeroOr (gapField w) (.ilvSetbit (aField w) (vField w == 1) (idxField w))
  | 0x12 => zeroOr (cField w) (.ilvGetbyte (aField w) (bField w))
  | 0x13 => .ok (.ilvSetbyte (aField w) (bField w) (BitVec.ofNat 8 (cField w)))
  | 0x14 => zeroOr (vField w + gapField w) (.ilvPhys (aField w) (idxField w))
  | 0x20 => zeroOr (cField w) (.frmFrame (BitVec.ofNat 8 (aField w)) (bField w))
  | 0x21 => zeroOr (bitField w 23 0) .frmDeframe
  | 0x30 => zeroOr (bitField w 23 0) .schTick
  | 0x31 => zeroOr (bitField w 23 0) .schHbreq
  | 0x32 => zeroOr (bitField w 23 0) .schHbclr
  | 0x33 => zeroOr (cField w) (.schSubmit (BitVec.ofNat 8 (aField w)) (bField w))
  | 0x34 => zeroOr (bitField w 23 0) .schRpclr
  | 0x40 => zeroOr (bField w) (.rbPush (aField w) (BitVec.ofNat 8 (cField w)))
  | 0x41 => zeroOr (immField w) (.rbPop (aField w))
  | 0x42 => zeroOr (cField w) (.rbPeek (aField w) (bField w))
  | 0x43 => zeroOr (immField w) (.rbFree (aField w))
  | 0x44 => zeroOr (immField w) (.rbUsed (aField w))
  | 0x45 => zeroOr (immField w) (.rbReset (aField w))
  | 0x46 => zeroOr (cField w) (.rbPushs (aField w) (bField w))
  | 0x47 => zeroOr (cField w) (.rbPops (aField w) (bField w))
  | 0x50 => zeroOr (bitField w 23 0) .brDrain
  | 0x51 => zeroOr (bitField w 23 0) .brRoom
  | 0x52 => zeroOr (aField w + cField w) (.brDeliver (bField w))
  | _ => .error .unassignedOpcode

/-- The word of an opcode-table row: a command word is one 32-bit word (R108), so nothing stands above `nbits`. -/
def decodeTableWord (nbits w : Nat) : Option Instr :=
  match decode (BitVec.ofNat 32 (w % 2 ^ nbits)) with
  | .ok i => some i
  | .error _ => none

/-! ## The encoder -/

/-- The opcode of each command (R106). -/
def Instr.opcode : Instr → Nat
  | .nop => 0x00
  | .memRd .. => 0x01
  | .memWr .. => 0x02
  | .cfgWr .. => 0x08
  | .cfgRd .. => 0x09
  | .ctlReset => 0x0F
  | .ilvGetbit .. => 0x10
  | .ilvSetbit .. => 0x11
  | .ilvGetbyte .. => 0x12
  | .ilvSetbyte .. => 0x13
  | .ilvPhys .. => 0x14
  | .frmFrame .. => 0x20
  | .frmDeframe => 0x21
  | .schTick => 0x30
  | .schHbreq => 0x31
  | .schHbclr => 0x32
  | .schSubmit .. => 0x33
  | .schRpclr => 0x34
  | .rbPush .. => 0x40
  | .rbPop .. => 0x41
  | .rbPeek .. => 0x42
  | .rbFree .. => 0x43
  | .rbUsed .. => 0x44
  | .rbReset .. => 0x45
  | .rbPushs .. => 0x46
  | .rbPops .. => 0x47
  | .brDrain => 0x50
  | .brRoom => 0x51
  | .brDeliver .. => 0x52

/-- Format A (and Z, with zero operands): `op`, `a`, `b`, `c` from the top byte down (R101). -/
def formatA (op a b c : Nat) : Word := BitVec.ofNat 32 (op * 2 ^ 24 + a * 2 ^ 16 + b * 2 ^ 8 + c)

/-- Format B: `op`, `n`, `v` at bit 15, `idx` in the low eleven bits (R101). -/
def formatB (op n v idx : Nat) : Word := BitVec.ofNat 32 (op * 2 ^ 24 + n * 2 ^ 16 + v * 2 ^ 15 + idx)

/-- Format I: `op`, `r`, a 16-bit immediate (R101). -/
def formatI (op r imm : Nat) : Word := BitVec.ofNat 32 (op * 2 ^ 24 + r * 2 ^ 16 + imm)

/-- The word of a command (R101, R106); meant for well-formed commands. -/
def encode (i : Instr) : Word :=
  match i with
  | .nop => formatA i.opcode 0 0 0
  | .memRd sp addr => formatA i.opcode sp addr 0
  | .memWr sp addr val => formatA i.opcode sp addr val.toNat
  | .cfgWr r imm => formatI i.opcode r imm.toNat
  | .cfgRd r => formatI i.opcode r 0
  | .ctlReset => formatA i.opcode 0 0 0
  | .ilvGetbit n idx => formatB i.opcode n 0 idx
  | .ilvSetbit n v idx => formatB i.opcode n v.toNat idx
  | .ilvGetbyte n k => formatA i.opcode n k 0
  | .ilvSetbyte n k val => formatA i.opcode n k val.toNat
  | .ilvPhys n idx => formatB i.opcode n 0 idx
  | .frmFrame type len => formatA i.opcode type.toNat len 0
  | .frmDeframe => formatA i.opcode 0 0 0
  | .schTick => formatA i.opcode 0 0 0
  | .schHbreq => formatA i.opcode 0 0 0
  | .schHbclr => formatA i.opcode 0 0 0
  | .schSubmit type len => formatA i.opcode type.toNat len 0
  | .schRpclr => formatA i.opcode 0 0 0
  | .rbPush ring byte => formatA i.opcode ring 0 byte.toNat
  | .rbPop ring => formatA i.opcode ring 0 0
  | .rbPeek ring offset => formatA i.opcode ring offset 0
  | .rbFree ring => formatA i.opcode ring 0 0
  | .rbUsed ring => formatA i.opcode ring 0 0
  | .rbReset ring => formatA i.opcode ring 0 0
  | .rbPushs ring len => formatA i.opcode ring len 0
  | .rbPops ring max => formatA i.opcode ring max 0
  | .brDrain => formatA i.opcode 0 0 0
  | .brRoom => formatA i.opcode 0 0 0
  | .brDeliver len => formatA i.opcode 0 len 0

/-! ## The opcode map as a table of masks and patterns

The same map a second time, from the `match` and `mask` columns of R106. `decode` does not use it; that the two agree
is a statement about the model. -/

/-- One row of R106: a word belongs to the row when `w & mask = pattern`. -/
structure OpcodeRow where
  /-- the row's opcode -/
  op : Nat
  /-- the `match` column -/
  pattern : Word
  /-- the `mask` column -/
  mask : Word
deriving DecidableEq, Repr

/-- R106: access, configuration and interleaver commands. -/
def opcodeRowsLow : List OpcodeRow :=
  [⟨0x00, 0x00000000, 0xFFFFFFFF⟩, ⟨0x01, 0x01000000, 0xFF0000FF⟩, ⟨0x02, 0x02000000, 0xFF000000⟩,
   ⟨0x08, 0x08000000, 0xFF000000⟩, ⟨0x09, 0x09000000, 0xFF00FFFF⟩, ⟨0x0F, 0x0F000000, 0xFFFFFFFF⟩,
   ⟨0x10, 0x10000000, 0xFF00F800⟩, ⟨0x11, 0x11000000, 0xFF007800⟩, ⟨0x12, 0x12000000, 0xFF0000FF⟩,
   ⟨0x13, 0x13000000, 0xFF000000⟩, ⟨0x14, 0x14000000, 0xFF00F800⟩]

/-- R106: framer, scheduler, ring and bridge commands. -/
def opcodeRowsHigh : List OpcodeRow :=
  [⟨0x20, 0x20000000, 0xFF0000FF⟩, ⟨0x21, 0x21000000, 0xFFFFFFFF⟩, ⟨0x30, 0x30000000, 0xFFFFFFFF⟩,
   ⟨0x31, 0x31000000, 0xFFFFFFFF⟩, ⟨0x32, 0x32000000, 0xFFFFFFFF⟩, ⟨0x33, 0x33000000, 0xFF0000FF⟩,
   ⟨0x34, 0x34000000, 0xFFFFFFFF⟩, ⟨0x40, 0x40000000, 0xFF00FF00⟩, ⟨0x41, 0x41000000, 0xFF00FFFF⟩,
   ⟨0x42, 0x42000000, 0xFF0000FF⟩, ⟨0x43, 0x43000000, 0xFF00FFFF⟩, ⟨0x44, 0x44000000, 0xFF00FFFF⟩,
   ⟨0x45, 0x45000000, 0xFF00FFFF⟩, ⟨0x46, 0x46000000, 0xFF0000FF⟩, ⟨0x47, 0x47000000, 0xFF0000FF⟩,
   ⟨0x50, 0x50000000, 0xFFFFFFFF⟩, ⟨0x51, 0x51000000, 0xFFFFFFFF⟩, ⟨0x52, 0x52000000, 0xFFFF00FF⟩]

/-- The 29 rows of R106. -/
def opcodeRows : List OpcodeRow := opcodeRowsLow ++ opcodeRowsHigh

/-- The word belongs to the row (R104 step 1). -/
def OpcodeRow.accepts (r : OpcodeRow) (w : Word) : Bool := w &&& r.mask == r.pattern

end Sys2Proof
end

