-- ==== Sys2Proof/Config.lean ====
section
/-! DEFINITION. What an implementation fixes: the OPEN parameters of `spec/00_scope.md` section 3, and the free values.

A configuration is plain data, so that the machine can take it as an argument, as R5 to R8 ask. Its three functions
(the codec, `BackoffFn`, `HeartbeatPayload`) are named by small inductive types: `external` stands for an
uninterpreted constant of this file (or of `Machine/State.lean` for the heartbeat), the other constructors for the
reference functions that the spec itself writes down. -/

namespace Sys2Proof

/-- The FEC codec of R6. `external` is the real, external codec: two uninterpreted functions.
The other two are the codecs of `spec/95_test_vectors.md` section 0, no part of the hardware, there to let the
vectors run (log 2). -/
inductive Codec where
  /-- the external codec, about which nothing is known -/
  | external
  /-- the codec of test configuration TC1: the block followed by its complement -/
  | complement
  /-- the codec of test configuration TC2: three copies, decoded by bitwise majority -/
  | majority
deriving DecidableEq, Repr, Inhabited

/-- `BackoffFn` of R8 and R258. -/
inductive Backoff where
  /-- an uninterpreted function of the network id, the slot and the retry count -/
  | external
  /-- `BackoffRef` of R258 with its `BACKOFF_SPAN` -/
  | reference (span : Nat)
deriving DecidableEq, Repr, Inhabited

/-- `HeartbeatPayload` of R8 and R260. -/
inductive Heartbeat where
  /-- an uninterpreted function of the state -/
  | external
  /-- the reference function of R260: the four counters, cut to MAXPAY -/
  | counters
deriving DecidableEq, Repr, Inhabited

/-- One choice of every OPEN parameter (`spec/00_scope.md` section 3). -/
structure Config where
  /-- `STRIDE[0..85]` (R5) -/
  stride : List Nat
  /-- `FEC_K`, bytes into the encoder (R6) -/
  fecK : Nat
  /-- `FEC_N`, bytes out of the encoder (R6) -/
  fecN : Nat
  /-- `FEC_T`, the correction radius in bits (R6) -/
  fecT : Nat
  /-- `FecEncode` and `FecDecode` (R6) -/
  codec : Codec
  /-- `RX_CAP` (R7) -/
  rxCap : Nat
  /-- `TX_CAP` (R7) -/
  txCap : Nat
  /-- `MIN_CLEAR_TICKS` (R8) -/
  minClearTicks : Nat
  /-- `DC_WINDOW_TICKS` (R8) -/
  dcWindowTicks : Nat
  /-- `NUM_SLOTS` (R8) -/
  numSlots : Nat
  /-- `SLOT_TICKS` (R8) -/
  slotTicks : Nat
  /-- `BackoffFn` (R8) -/
  backoff : Backoff
  /-- `HeartbeatPayload` (R8) -/
  heartbeat : Heartbeat
  /-- `CREDIT_MAX` (R8) -/
  creditMax : Nat
deriving DecidableEq, Repr, Inhabited

namespace Config

/-- `HDR_LEN` (R9). -/
def hdrLen : Nat := 6

/-- `TX_COST`, fixed at 1 by the spec (R8). -/
def txCost : Nat := 1

/-- The largest index of the stride table (R5). -/
def lastStride : Nat := 85

/-- `FRAME_LEN = HDR_LEN + FEC_N` (R9). -/
def frameLen (c : Config) : Nat := hdrLen + c.fecN

/-- `TABLE_WF` of R5: every entry 1..85 is coprime to the bit count of the block size it stands for. -/
def tableWf (c : Config) : Bool :=
  (List.range lastStride).all fun j => Nat.gcd (c.stride.getD (j + 1) 0) (24 * (j + 1)) == 1

/-- The codecs of the test configurations fix the ratio of FEC_N to FEC_K; an external one need not. -/
def codecFits (c : Config) : Bool :=
  match c.codec with
  | .external => true
  | .complement => c.fecN == 2 * c.fecK
  | .majority => c.fecN == 3 * c.fecK

/-- The external `BackoffFn` before it is brought into 1..65535: an uninterpreted constant (R8, R258, log 3). -/
opaque backoffFree : Nat → Nat → Nat → Nat

/-- The external `BackoffFn`, in 1..65535 (R8, R258, log 3). -/
def externalBackoff (netid slot retry : Nat) : Nat := 1 + backoffFree netid slot retry % 65535

/-- `BackoffFn` "must depend on `netid`" (R8): for some slot and retry count, two network ids are told apart. Two ids
that differ in their value cannot both have the value of id 0, so id 0 can be one of the two. -/
def dependsOnNetid (f : Nat → Nat → Nat → Nat) : Bool :=
  (List.range 65536).any fun netid =>
    (List.range 256).any fun slot => (List.range 256).any fun retry => f netid slot retry != f 0 slot retry

/-- The constraints on `BackoffFn` (R8, R258). The reference function of span 1 is a constant, so it does not depend on
the network id; every larger span tells ids 0 and 1 apart (log 3). -/
def backoffFits (c : Config) : Bool :=
  match c.backoff with
  | .external => dependsOnNetid externalBackoff
  | .reference span => 2 ≤ span && span ≤ 65535

/-- A configuration is well formed when every constraint of `spec/00_scope.md` section 3 holds. -/
def wf (c : Config) : Bool :=
  c.stride.length == 86 && c.stride.all (· ≤ 65535) && c.tableWf
  && (1 ≤ c.fecK && c.fecK ≤ 255) && (1 ≤ c.fecN && hdrLen + c.fecN ≤ 255) && c.codecFits
  && (2 ≤ c.rxCap && c.rxCap ≤ 256) && (2 ≤ c.txCap && c.txCap ≤ 256)
  && (1 ≤ c.minClearTicks && c.minClearTicks ≤ 255)
  && (1 ≤ c.dcWindowTicks && c.dcWindowTicks ≤ 65535)
  && (1 ≤ c.numSlots && c.numSlots ≤ 256) && (1 ≤ c.slotTicks && c.slotTicks ≤ 65535)
  && c.backoffFits && c.creditMax ≤ 255

/-- A well-formed configuration with small values; it only serves `hardware` as a fallback. -/
def smallest : Config where
  stride := List.replicate 86 1
  fecK := 1
  fecN := 1
  fecT := 0
  codec := .external
  rxCap := 2
  txCap := 2
  minClearTicks := 1
  dcWindowTicks := 1
  numSlots := 1
  slotTicks := 1
  backoff := .reference 2
  heartbeat := .external
  creditMax := 0

/-- The configuration the implementer of the hardware chose: an uninterpreted constant (log 1). -/
opaque chosen : Config

/-- The configuration of the machine after reset: the chosen one where it is well formed, as the spec supposes.
Every well-formed configuration can be the value of `chosen`, so nothing is known of this one but that it is well
formed (log 1). -/
def hardware : Config := if chosen.wf then chosen else smallest

/-! ## Free values: uninterpreted constants, each applied to what it depends on -/

/-- The external encoder before its result is fitted to FEC_N bytes (R6, log 2). -/
opaque fecEncodeFree : List Byte → List Byte

/-- The external decoder: a block and a corrected-bit count, or none for Uncorrectable (R6, log 2). -/
opaque fecDecodeFree : List Byte → Option (List Byte × Nat)

/-- A byte that nothing has written since hardware reset number `epoch`, at a cell's key (R373, U1, log 8). -/
opaque powerOnByte : Nat → Nat → Byte

/-- The answer of `Radio.receive_nonblocking` at draw number `n` (R15, U8, log 5). -/
opaque drawReceive : Nat → Option (List Byte)

/-- The answer of `Radio.channel_clear` at draw number `n` (R15, U8, log 5). -/
opaque drawChannelClear : Nat → Bool

/-- The answer of `Radio.read_rssi` at draw number `n` (R15, U8, log 5). -/
opaque drawRssi : Nat → Byte

/-- The answer of `Radio.transmit` at draw number `n` (R15, U8, log 5). -/
opaque drawTransmit : Nat → Bool

/-- The answer of `Cmd.dispatch` at draw number `n` (R15, U8, log 5). -/
opaque drawDispatch : Nat → Option (List Byte)

end Config

end Sys2Proof
end

