-- ==== Sys2Proof/Machine/State.lean ====
section
/-! DEFINITION. The state of the SiK link engine (`spec/10_state.md`, `spec/20_memory.md`), as plain data.

R20 lists the state of the block. Beside it State holds what a step also needs because it is a function of State
alone: the configuration (a parameter, R20), the inputs of the environment (R15, R22) and the event history (an
output, R54). -/

namespace Sys2Proof.Machine

/-- The two command ports, which are also the two contexts (R100, R350). -/
inductive Port where
  /-- FGCMD, the foreground agent's port -/
  | fg
  /-- IRQCMD, the interrupt agent's port -/
  | irq
deriving DecidableEq, Repr

/-- `sch_state` (R48). -/
inductive SchState where
  | listen
  | transmitWindow
  | backoff
deriving DecidableEq, Repr

/-- The two ring buffers (R51). -/
inductive Ring where
  /-- ring operand 0, serial receive -/
  | srx
  /-- ring operand 1, serial transmit -/
  | stx
deriving DecidableEq, Repr

/-- Where the block keeps bytes: the four writable spaces of R70, and the storage that is in no space (R76). -/
inductive Store where
  /-- space 0, the interleaver's block (R71) -/
  | blk
  /-- space 1, payload staging (R72) -/
  | pay
  /-- space 2, the last framed radio block (R73) -/
  | txb
  /-- space 3, the radio block to deframe (R74) -/
  | rxb
  /-- `buf` of ring SRX (R51) -/
  | srx
  /-- `buf` of ring STX (R51) -/
  | stx
  /-- the build buffer (R49) -/
  | build
deriving DecidableEq, Repr

/-- The result pair of one port (R21). -/
structure PortRegs where
  result : Half
  err : Byte
deriving DecidableEq, Repr

/-- The configuration registers (R33 to R39). -/
structure Tunables where
  /-- DUTY (R33) -/
  duty : Byte
  /-- LBT (R34) -/
  lbt : Byte
  /-- NETID (R35) -/
  netid : Half
  /-- MAXPAY (R36) -/
  maxpay : Byte
  /-- GAPTO (R37) -/
  gapto : Half
  /-- NODEID (R38) -/
  nodeid : Byte
  /-- PEERNOROOM (R39) -/
  peerNoRoom : Bool
deriving DecidableEq, Repr

/-- The four statistics counters (R40). -/
structure Counters where
  /-- CNT_RXOVF -/
  rxOvf : Half
  /-- CNT_TXOVF -/
  txOvf : Half
  /-- CNT_CORR -/
  corr : Half
  /-- CNT_UNCORR -/
  uncorr : Half
deriving DecidableEq, Repr

/-- The scheduler's registers and its state (R41, R48). -/
structure Sched where
  /-- `sch_state` (R48) -/
  state : SchState
  /-- SLOT, the current time-slot index -/
  slot : Byte
  /-- SLOTTMR, ticks spent in the current slot -/
  slotTmr : Half
  /-- DCTX, ticks transmitted in the current window -/
  dcTx : Half
  /-- DCELAPSED, ticks elapsed in the current window -/
  dcElapsed : Half
  /-- BACKOFF, ticks of backoff remaining -/
  backoff : Half
  /-- LASTRSSI, the last RSSI answer -/
  lastRssi : Byte
  /-- RETRY, backoffs since the last keyed transmission -/
  retry : Byte
  /-- CLEARCNT, consecutive clear LISTEN ticks -/
  clearCnt : Byte
  /-- TXSEQ, the sequence number of the next frame -/
  txSeq : Byte
deriving DecidableEq, Repr

/-- The bridge's registers (R42) and the length of its build buffer (R49). -/
structure BridgeRegs where
  /-- CREDIT (R306) -/
  credit : Byte
  /-- GAPTMR (R300) -/
  gapTmr : Half
  /-- `build_len`, seen as BUILDLEN (R49) -/
  buildLen : Nat
deriving DecidableEq, Repr

/-- The received-header registers (R43). -/
structure RxHeader where
  /-- RXTYPE -/
  type : Byte
  /-- RXSEQ -/
  seq : Byte
  /-- RXSENDER -/
  sender : Byte
  /-- RXNETID -/
  netid : Half
  /-- RXLEN -/
  len : Byte
deriving DecidableEq, Repr

/-- What `tx_pending` holds (R45). -/
structure Packet where
  type : Byte
  payload : List Byte
deriving DecidableEq, Repr

/-- The cursors of a ring (R51); its storage is a `Store`. -/
structure Cursors where
  insert : Nat
  remove : Nat
deriving DecidableEq, Repr

/-- The bytes that have been written since hardware reset: key and byte, keys strictly rising. A key that is not
listed reads as no value, so no entry equals what an unlisted key reads as (log 8). -/
abbrev Memory := List Host.Cell

/-- A bulk command between two of its micro-steps (R82). -/
inductive Bulk where
  /-- RB.PUSHS, BR.DELIVER (`inTick` false) or the delivery of SCH.TICK (true): the bytes still to be pushed to STX,
  and how many have been -/
  | push (inTick : Bool) (rest : List Byte) (count : Nat)
  /-- RB.POPS: how many bytes may be popped from SRX in all, and how many have been -/
  | pop (max count : Nat)
  /-- the drain loop of BR.DRAIN (`inTick` false) or of SCH.TICK (true) -/
  | drain (inTick : Bool)
deriving DecidableEq, Repr

/-- What the host may do to the block next. -/
inductive Input where
  /-- present a command word on a port (R22, R100) -/
  | command (port : Port) (word : Word)
  /-- assert pin RESET (R370) -/
  | hardwareReset
deriving DecidableEq, Repr

/-- Answers that ENV has in store for the oracle calls, one queue a call, the next answer first (R15). -/
structure Answers where
  receive : List (Option (List Byte))
  channelClear : List Bool
  rssi : List Byte
  transmit : List Bool
  dispatch : List (Option (List Byte))
deriving DecidableEq, Repr

/-- Everything outside the block that a step consults; no command reads or writes it but through an oracle call. -/
structure Env where
  /-- what the host presents, in order (R22) -/
  program : List Input
  /-- while a bulk command is in progress and the next input is not a foreground command: true lets the input go
  first, false runs a micro-step; when the list is empty the micro-step runs (R82, log 6) -/
  preempt : List Bool
  /-- answers in store -/
  answers : Answers
  /-- how many answers were drawn from the free values (log 5) -/
  draws : Nat
  /-- how many hardware resets there have been, for the free power-on bytes (log 8) -/
  epoch : Nat
deriving DecidableEq, Repr

/-- One oracle call with its arguments and its answer (R54). -/
inductive Event where
  | receive (answer : Option (List Byte))
  | dispatch (payload : List Byte) (answer : Option (List Byte))
  | setChannel (slot : Byte)
  | channelClear (answer : Bool)
  | readRssi (answer : Byte)
  | transmit (frame : List Byte) (answer : Bool)
deriving DecidableEq, Repr

/-- The machine. -/
structure State where
  /-- the configuration, the same in every state of a run (R5 to R9) -/
  cfg : Config
  /-- RESULT and ERR (R21) -/
  fg : PortRegs
  /-- IRESULT and IERR (R21) -/
  irq : PortRegs
  /-- CORR (R21) -/
  corr : Half
  /-- TICKCOND (R24) -/
  tickCond : Half
  /-- the configuration registers (R33 to R39) -/
  tun : Tunables
  /-- the statistics counters (R40) -/
  cnt : Counters
  /-- the scheduler (R41, R48) -/
  sch : Sched
  /-- the bridge (R42, R49) -/
  bridge : BridgeRegs
  /-- the received-header registers (R43) -/
  rx : RxHeader
  /-- `tx_pending` (R45) -/
  txPending : Option Packet
  /-- `reply_pending` (R46) -/
  replyPending : Option (List Byte)
  /-- `hb_req` (R47) -/
  hbReq : Bool
  /-- the FATAL latch (R50) -/
  fatal : Bool
  /-- the cursors of SRX (R51) -/
  srx : Cursors
  /-- the cursors of STX (R51) -/
  stx : Cursors
  /-- the bytes of every `Store` (R49, R51, R52) -/
  mem : Memory
  /-- the bulk command in progress on FGCMD, if any (R82) -/
  bulk : Option Bulk
  /-- the port the command being executed was accepted on (R100, log 10) -/
  port : Port
  /-- the outside of the block (R15, R22) -/
  env : Env
  /-- the event history, oldest first (R54) -/
  history : List Event
deriving DecidableEq, Repr

/-- No command and no step of this machine faults: every command word, legal or not, ends in success, in an error
code, or in the fatal refusal, and the machine goes on (R14, R105, R343, R345). So no reason is listed. -/
inductive Fault where
deriving DecidableEq, Repr

/-- Why a step has no meaning. -/
inductive Refusal where
  /-- Raised by an arm of `exec` that has no meaning yet, under its mnemonic; no arm does. Safe: it stops where the
  hardware goes on. -/
  | notModelled (mnemonic : String)
deriving DecidableEq, Repr

/-- Both cursors at 0 (R55). -/
def Cursors.empty : Cursors := ⟨0, 0⟩

/-- No commands, no choices, no answers in store, both counters at 0 (log 5, log 6, log 8, log 15). -/
def Env.empty : Env := ⟨[], [], ⟨[], [], [], [], []⟩, 0, 0⟩

/-- The state after hardware reset of a block with configuration `c` (R55, R371). No byte has been written, and
nothing is presented yet. -/
def State.resetWith (c : Config) : State where
  cfg := c
  fg := ⟨0, 0⟩
  irq := ⟨0, 0⟩
  corr := 0
  tickCond := 0
  tun :=
    { duty := 0, lbt := 0, netid := 0, maxpay := BitVec.ofNat 8 c.fecK, gapto := 0, nodeid := 0, peerNoRoom := false }
  cnt := ⟨0, 0, 0, 0⟩
  sch :=
    { state := .listen, slot := 0, slotTmr := 0, dcTx := 0, dcElapsed := 0, backoff := 0, lastRssi := 0, retry := 0,
      clearCnt := 0, txSeq := 0 }
  bridge := { credit := BitVec.ofNat 8 c.creditMax, gapTmr := 0, buildLen := 0 }
  rx := ⟨0, 0, 0, 0, 0⟩
  txPending := none
  replyPending := none
  hbReq := false
  fatal := false
  srx := .empty
  stx := .empty
  mem := []
  bulk := none
  port := .fg
  env := .empty
  history := []

/-- The machine right after hardware reset (R55, R371), with the configuration its implementer chose (log 1). -/
def State.reset : State := State.resetWith Config.hardware

end Sys2Proof.Machine

namespace Sys2Proof

/-- The external `HeartbeatPayload` before its result is cut to 255 bytes: an uninterpreted function of the
block's state (R8, R260, log 4). -/
opaque Config.heartbeatFree : Machine.State → List Byte

end Sys2Proof
end

