-- ==== Sys2Proof/Machine/Flags.lean ====
section
/-! DEFINITION. STATUS, TICKCOND and the saturating counters (`spec/10_state.md` R23, R24, R40; `spec/41_ring_buffer.md`
R166). -/

namespace Sys2Proof.Machine

/-- The number STATUS shows for `sch_state` (R23). -/
def SchState.number : SchState → Nat
  | .listen => 0
  | .transmitWindow => 1
  | .backoff => 2

/-- STATUS, a view of other state (R23). -/
def statusWord (s : State) : Half :=
  BitVec.ofNat 16
    (s.fatal.toNat + 2 * s.sch.state.number + 8 * s.txPending.isSome.toNat + 16 * s.replyPending.isSome.toNat
      + 32 * s.hbReq.toNat + 64 * s.tun.peerNoRoom.toNat + 128 * (decide (0 < s.bridge.buildLen)).toNat)

/-! ## The bits of TICKCOND (R24) -/

/-- RX_FRAME: `Radio.receive_nonblocking` answered a frame. -/
def condRxFrame : Nat := 0
/-- RX_DROPPED: the frame was discarded for its length, network, LEN byte or type. -/
def condRxDropped : Nat := 1
/-- RX_UNCORRECTABLE: the decoder gave up on the frame. -/
def condRxUncorrectable : Nat := 2
/-- RX_DELIVERED: a payload was pushed to STX. -/
def condRxDelivered : Nat := 3
/-- RX_OVERFLOW: that push dropped at least one byte. -/
def condRxOverflow : Nat := 4
/-- RX_DISPATCHED: a remote-AT payload went to `Cmd.dispatch`. -/
def condRxDispatched : Nat := 5
/-- CHANNEL_BUSY: LISTEN found the channel busy. -/
def condChannelBusy : Nat := 6
/-- DUTY_EXHAUSTED: TRANSMIT_WINDOW found no budget. -/
def condDutyExhausted : Nat := 7
/-- TX_DONE: `Radio.transmit` answered true. -/
def condTxDone : Nat := 8
/-- TX_FAILED: `Radio.transmit` answered false. -/
def condTxFailed : Nat := 9
/-- DATA_SUPPRESSED: a data packet was held back by the credit. -/
def condDataSuppressed : Nat := 10
/-- SLOT_CHANGED: the slot index changed. -/
def condSlotChanged : Nat := 11
/-- HANDOVER: the bridge handed a packet to `tx_pending`. -/
def condHandover : Nat := 12

/-- Set one bit of TICKCOND. -/
def State.setCond (bit : Nat) (s : State) : State := { s with tickCond := s.tickCond ||| BitVec.twoPow 16 bit }

/-- Set a bit of TICKCOND if the condition holds. -/
def State.setCondIf (p : Bool) (bit : Nat) (s : State) : State := if p then s.setCond bit else s

/-! ## Saturating counters -/

/-- `SatInc` on a 16-bit counter: it sticks at 0xFFFF (R166). -/
def satInc (c : Half) : Half := if c.toNat < 0xFFFF then BitVec.ofNat 16 (c.toNat + 1) else c

/-- `min(v + 1, 255)` of RETRY and CLEARCNT (R137, R252, R258). -/
def satInc8 (c : Byte) : Byte := BitVec.ofNat 8 (min (c.toNat + 1) 255)

/-- `min(c, 0xFFFF)` of CORR and PARAM_T (R21, R44). -/
def sat16 (n : Nat) : Half := BitVec.ofNat 16 (min n 0xFFFF)

/-- The overflow of a ring counts in CNT_RXOVF for SRX and in CNT_TXOVF for STX (R165). -/
def State.countOverflow (r : Ring) (s : State) : State :=
  match r with
  | .srx => { s with cnt := { s.cnt with rxOvf := satInc s.cnt.rxOvf } }
  | .stx => { s with cnt := { s.cnt with txOvf := satInc s.cnt.txOvf } }

end Sys2Proof.Machine
end

