-- ==== Sys2Proof/Machine/Ops.lean ====
section
/-! DEFINITION. The operations every command is made of: bytes of memory, result registers, raising an error and
leaving the fatal state, ring buffers, oracle calls. -/

namespace Sys2Proof.Machine

/-! ## Memory (`spec/20_memory.md`) -/

/-- The byte listed under a key, none when the key was never written. -/
def Memory.lookup : Memory → Nat → Option Byte
  | [], _ => none
  | (k, b) :: m, a => if k = a then some b else Memory.lookup m a

/-- List a byte under a key, keeping the keys strictly rising. -/
def Memory.store : Memory → Nat → Byte → Memory
  | [], a, v => [(a, v)]
  | (k, b) :: m, a, v =>
    if a < k then (a, v) :: (k, b) :: m
    else if a = k then (a, v) :: m
    else (k, b) :: Memory.store m a v

/-- The canonical form: keys strictly rising. No entry can equal what an unlisted key reads as, since that is no
value (log 8). -/
abbrev Memory.wf (m : Memory) : Prop := m.Pairwise fun x y => x.1 < y.1

/-- The number of a store among the seven. -/
def Store.number : Store → Nat
  | .blk => 0
  | .pay => 1
  | .txb => 2
  | .rxb => 3
  | .srx => 4
  | .stx => 5
  | .build => 6

/-- The key of a byte: different for any two bytes, whatever their stores and addresses. -/
def Store.key (st : Store) (a : Nat) : Nat := 8 * a + st.number

/-- `Mem[SP][a]`, and likewise a byte of ring storage or of the build buffer. A byte that nothing has written since
hardware reset has a free value (R373, U1, log 8). -/
def State.rd (s : State) (st : Store) (a : Nat) : Byte :=
  (Memory.lookup s.mem (st.key a)).getD (Config.powerOnByte s.env.epoch (st.key a))

/-- `Mem[SP][a] <- v`. -/
def State.wr (st : Store) (a : Nat) (v : Byte) (s : State) : State :=
  { s with mem := Memory.store s.mem (st.key a) v }

/-- `MemRead(SP, 0, n)` of R12. -/
def State.readBytes (s : State) (st : Store) (n : Nat) : List Byte := (List.range n).map (s.rd st)

/-- `MemWrite(SP, a, |bs|, bs)` of R12. -/
def State.writeBytes (st : Store) (a : Nat) (bs : List Byte) (s : State) : State :=
  match bs with
  | [] => s
  | b :: rest => State.writeBytes st (a + 1) rest (s.wr st a b)

/-! ## Result registers (R21, R131) -/

/-- The result pair of a port. -/
def State.regs (s : State) : Port → PortRegs
  | .fg => s.fg
  | .irq => s.irq

/-- Write the result pair of a port. -/
def State.setRegs (p : Port) (r : PortRegs) (s : State) : State :=
  match p with
  | .fg => { s with fg := r }
  | .irq => { s with irq := r }

/-- Write ERR of a port and leave its RESULT. -/
def State.setErr (p : Port) (code : Byte) (s : State) : State :=
  s.setRegs p { s.regs p with err := code }

/-- A command that returns no value completes: ERR becomes 0 (R131). -/
def State.done (s : State) : State := s.setErr s.port 0

/-- A command that returns a value completes: RESULT and ERR of its port (R131). -/
def State.answer (v : Half) (s : State) : State := s.setRegs s.port ⟨v, 0⟩

/-! ## Errors and the fatal latch (`spec/60_exceptions.md`) -/

/-- The errors a command can raise (R331). ChannelBusy (4) and DutyCycleExhausted (5) are conditions of a tick and
never raised (R333). -/
inductive ErrCode where
  | bufferFull
  | bufferEmpty
  | frameUncorrectable
  | invalidBlockSize
  | illegalCommand
  | rangeError
  | roleViolation
  | fatalLatched
  | badLength
  | pendingOccupied
deriving DecidableEq, Repr

/-- The code ERR receives (R331). -/
def ErrCode.code : ErrCode → Byte
  | .bufferFull => 1
  | .bufferEmpty => 2
  | .frameUncorrectable => 3
  | .invalidBlockSize => 6
  | .illegalCommand => 7
  | .rangeError => 8
  | .roleViolation => 9
  | .fatalLatched => 10
  | .badLength => 11
  | .pendingOccupied => 12

/-- InvalidBlockSize is the only fatal error (R336). -/
def ErrCode.isFatal : ErrCode → Bool
  | .invalidBlockSize => true
  | _ => false

/-- `raise E` of R12, the block's only way to take an exception: ERR of the port the command is on receives the code,
and InvalidBlockSize also sets the FATAL latch. "Nothing is saved", "no vector is computed; no state is cleared"
(R343, R344). -/
def State.raise (e : ErrCode) (s : State) : State :=
  { s.setErr s.port e.code with fatal := s.fatal || e.isFatal }

/-- What CTL.RESET leaves: the reset state of R55, with the memories, the ring storage and the outside of the block as
they were. It is also the only return from the fatal state beside pin RESET (R136, R346, R373). -/
def State.softReset (s : State) : State :=
  { State.resetWith s.cfg with mem := s.mem, port := s.port, env := s.env }

/-- What pin RESET leaves: the state of R55 with every byte of memory unspecified again (R370, R373, log 14). -/
def State.hardwareReset (s : State) : State :=
  { State.resetWith s.cfg with env := { s.env with epoch := s.env.epoch + 1 } }

/-! ## Ring buffers (`spec/41_ring_buffer.md`) -/

/-- The capacity `N` of a ring (R7). -/
def State.cap (s : State) : Ring → Nat
  | .srx => s.cfg.rxCap
  | .stx => s.cfg.txCap

/-- The cursors of a ring. -/
def State.cursors (s : State) : Ring → Cursors
  | .srx => s.srx
  | .stx => s.stx

/-- Write the cursors of a ring. -/
def State.setCursors (r : Ring) (c : Cursors) (s : State) : State :=
  match r with
  | .srx => { s with srx := c }
  | .stx => { s with stx := c }

/-- The storage of a ring. -/
def Ring.storage : Ring → Store
  | .srx => .srx
  | .stx => .stx

/-- The ring is full when the next insert position equals `remove` (R151). -/
def State.ringFull (s : State) (r : Ring) : Bool :=
  ((s.cursors r).insert + 1) % s.cap r == (s.cursors r).remove

/-- The ring is empty when `insert = remove` (R151). -/
def State.ringEmpty (s : State) (r : Ring) : Bool := (s.cursors r).insert == (s.cursors r).remove

/-- `used = (insert + N - remove) mod N` (R151). -/
def State.ringUsed (s : State) (r : Ring) : Nat :=
  ((s.cursors r).insert + s.cap r - (s.cursors r).remove) % s.cap r

/-- `free = N - 1 - used` (R151). -/
def State.ringFree (s : State) (r : Ring) : Nat := s.cap r - 1 - s.ringUsed r

/-- The byte a peek at `offset` returns (R155). -/
def State.ringPeek (s : State) (r : Ring) (offset : Nat) : Byte :=
  s.rd r.storage (((s.cursors r).remove + offset) % s.cap r)

/-- The push of R153 into a ring that is not full: the byte is stored, then `insert` moves. -/
def State.ringPut (r : Ring) (b : Byte) (s : State) : State :=
  (s.wr r.storage (s.cursors r).insert b).setCursors r
    { s.cursors r with insert := ((s.cursors r).insert + 1) % s.cap r }

/-- `try_push` (R150, R153): none when the ring is full. -/
def State.tryPush (r : Ring) (b : Byte) (s : State) : Option State :=
  if s.ringFull r then none else some (s.ringPut r b)

/-- Move `remove` past one byte (R154). -/
def State.ringDrop (r : Ring) (s : State) : State :=
  s.setCursors r { s.cursors r with remove := ((s.cursors r).remove + 1) % s.cap r }

/-- `try_pop` (R150, R154): the byte and the ring after it, none when the ring is empty. -/
def State.tryPop (r : Ring) (s : State) : Option (Byte × State) :=
  if s.ringEmpty r then none else some (s.rd r.storage (s.cursors r).remove, s.ringDrop r)

/-- The bytes a ring holds, in the order they will be popped. -/
def State.ringContents (s : State) (r : Ring) : List Byte := (List.range (s.ringUsed r)).map (s.ringPeek r)

/-! ## Oracle calls (R15, R54) -/

/-- Take the next answer of a queue, or a free value when the queue is empty: the answer, the rest of the queue, and
the count of draws (log 5). -/
def draw {α : Type} (queue : List α) (free : Nat → α) (n : Nat) : α × List α × Nat :=
  match queue with
  | x :: rest => (x, rest, n)
  | [] => (free n, [], n + 1)

/-- Record one oracle call (R54). -/
def State.record (e : Event) (s : State) : State := { s with history := s.history ++ [e] }

/-- `Radio.receive_nonblocking()`. -/
def State.askReceive (s : State) : Option (List Byte) × State :=
  let (a, queue, n) := draw s.env.answers.receive Config.drawReceive s.env.draws
  (a, { s with env := { s.env with answers := { s.env.answers with receive := queue }, draws := n } }.record
    (.receive a))

/-- `Cmd.dispatch(payload)`. -/
def State.askDispatch (payload : List Byte) (s : State) : Option (List Byte) × State :=
  let (a, queue, n) := draw s.env.answers.dispatch Config.drawDispatch s.env.draws
  (a, { s with env := { s.env with answers := { s.env.answers with dispatch := queue }, draws := n } }.record
    (.dispatch payload a))

/-- `Radio.channel_clear()`. -/
def State.askChannelClear (s : State) : Bool × State :=
  let (a, queue, n) := draw s.env.answers.channelClear Config.drawChannelClear s.env.draws
  (a, { s with env := { s.env with answers := { s.env.answers with channelClear := queue }, draws := n } }.record
    (.channelClear a))

/-- `Radio.read_rssi()`. -/
def State.askRssi (s : State) : Byte × State :=
  let (a, queue, n) := draw s.env.answers.rssi Config.drawRssi s.env.draws
  (a, { s with env := { s.env with answers := { s.env.answers with rssi := queue }, draws := n } }.record
    (.readRssi a))

/-- `Radio.transmit(frame)`. -/
def State.askTransmit (frame : List Byte) (s : State) : Bool × State :=
  let (a, queue, n) := draw s.env.answers.transmit Config.drawTransmit s.env.draws
  (a, { s with env := { s.env with answers := { s.env.answers with transmit := queue }, draws := n } }.record
    (.transmit frame a))

/-! ## Bits and bytes (`spec/20_memory.md` R79) -/

/-- Bit `j` of a byte, bit 0 the least significant (R11). -/
def byteBit (b : Byte) (j : Nat) : Bool := b.toNat / 2 ^ j % 2 == 1

/-- The byte with bit `j` set to `v` and the others as they were, by the formula of R187. -/
def setByteBit (b : Byte) (j : Nat) (v : Bool) : Byte :=
  BitVec.ofNat 8 (b.toNat - b.toNat / 2 ^ j % 2 * 2 ^ j + v.toNat * 2 ^ j)

/-- The byte whose bit `j` is `f j`, by the sum of R188. -/
def byteOfBits (f : Nat → Bool) : Byte :=
  BitVec.ofNat 8 ((List.range 8).foldl (fun val j => val + (f j).toNat * 2 ^ j) 0)

/-- Bring a byte sequence to exactly `n` bytes: longer ones are cut, shorter ones padded with zeros. -/
def fit (n : Nat) (bs : List Byte) : List Byte := bs.take n ++ List.replicate (n - bs.length) 0

end Sys2Proof.Machine
end

