-- ==== Sys2Proof/Machine/Codec.lean ====
section
/-! DEFINITION. The functions of the configuration: the FEC codec (`spec/00_scope.md` R6, `spec/43_framer.md` R211),
`BackoffFn` (`spec/44_scheduler.md` R258) and `HeartbeatPayload` (R260).

The external ones are uninterpreted constants, brought into the range the spec gives: a codec result has FEC_N or FEC_K
bytes, a backoff is in 1..65535, a heartbeat has at most 255 bytes (log 2, log 3, log 4). -/

namespace Sys2Proof.Machine

/-- What `FecDecode` answers (R6). -/
inductive FecResult where
  /-- the corrected block and the number of corrected bits -/
  | ok (block : List Byte) (corrected : Nat)
  /-- more errors than the decoder corrects -/
  | uncorrectable
deriving DecidableEq, Repr

/-- The number of one bits of a byte. -/
def onesOf (b : Byte) : Nat := (List.range 8).countP (byteBit b)

/-- In how many bit positions two byte sequences differ: `d(r, b)` of R211 is the distance of `r` and
`FecEncode(b)`. -/
def bitDistance (x y : List Byte) : Nat := (List.zipWith (fun a b => onesOf (a ^^^ b)) x y).sum

/-- `FecEncode` (R6). -/
def fecEncode (c : Config) (block : List Byte) : List Byte :=
  match c.codec with
  | .external => fit c.fecN (Config.fecEncodeFree block)
  | .complement => fit c.fecN (block ++ block.map fun v => ~~~v)
  | .majority => fit c.fecN (block ++ block ++ block)

/-- The bitwise majority of three bytes. -/
def majority3 (x y z : Byte) : Byte := (x &&& y) ||| (x &&& z) ||| (y &&& z)

/-- The bitwise majority of the three copies in a codeword of TC2. -/
def majorityBlock (k : Nat) (word : List Byte) : List Byte :=
  (List.range k).map fun j => majority3 (word.getD j 0) (word.getD (k + j) 0) (word.getD (2 * k + j) 0)

/-- `FecDecode` (R6). -/
def fecDecode (c : Config) (word : List Byte) : FecResult :=
  match c.codec with
  | .external =>
    match Config.fecDecodeFree word with
    | some (block, corrected) => .ok (fit c.fecK block) corrected
    | none => .uncorrectable
  | .complement =>
    if word.take c.fecK = (word.drop c.fecK).map (fun v => ~~~v) then .ok (fit c.fecK (word.take c.fecK)) 0
    else .uncorrectable
  | .majority =>
    .ok (majorityBlock c.fecK word)
      (bitDistance word (majorityBlock c.fecK word ++ majorityBlock c.fecK word ++ majorityBlock c.fecK word))

/-- `BackoffFn(netid, slot, retry)`, in 1..65535 (R258). -/
def backoffFn (c : Config) (netid slot retry : Nat) : Nat :=
  match c.backoff with
  | .external => Config.externalBackoff netid slot retry
  | .reference span => 1 + (netid + slot + retry) % span

/-- The two bytes of a counter, low byte first (R78, R260). -/
def counterBytes (v : Half) : List Byte := [BitVec.ofNat 8 (v.toNat % 256), BitVec.ofNat 8 (v.toNat / 256)]

/-- The state of the block alone, the list of R20: the outside, the port, the event history and the progress of a bulk
command are not on that list and are blanked (DESIGN CHOICE, log 4). The reset count stays, for the bytes that nothing has
written, which are state, hang on it (log 8). -/
def State.blockOnly (s : State) : State :=
  { s with bulk := none, port := .fg, env := { Env.empty with epoch := s.env.epoch }, history := [] }

/-- `HeartbeatPayload(state)`, read when the candidate is chosen (R260). -/
def heartbeatPayload (s : State) : List Byte :=
  match s.cfg.heartbeat with
  | .external => (Config.heartbeatFree s.blockOnly).take 255
  | .counters =>
    (counterBytes s.cnt.rxOvf ++ counterBytes s.cnt.txOvf ++ counterBytes s.cnt.corr ++ counterBytes s.cnt.uncorr).take
      (min 8 s.tun.maxpay.toNat)

end Sys2Proof.Machine
end

