-- ==== Sys2Proof/Machine/Operands.lean ====
section
/-! DEFINITION. The operand forms of a command (ring, space and register operands), and the checks every command
passes before its own Operation: port permission, then the fatal refusal (`spec/30_encoding.md` R104, R107;
`spec/60_exceptions.md` R345, R351). -/

namespace Sys2Proof.Machine

/-! ## Ring operand (R107) -/

/-- Ring operand 0 is SRX, 1 is STX, every other value is none: RangeError. -/
def ringOf : Nat → Option Ring
  | 0 => some .srx
  | 1 => some .stx
  | _ => none

/-! ## Space operand (`spec/20_memory.md` R70, R75) -/

/-- A byte of TABLE, the little-endian byte view of the configuration's strides (R75). -/
def tableByte (c : Config) (addr : Nat) : Byte :=
  if addr % 2 = 0 then BitVec.ofNat 8 (c.stride.getD (addr / 2) 0 % 256)
  else BitVec.ofNat 8 (c.stride.getD (addr / 2) 0 / 256)

/-- The store behind a space operand, with its size; TABLE and the reserved numbers have none (R70). -/
def spaceOf (c : Config) : Nat → Option (Store × Nat)
  | 0 => some (.blk, 255)
  | 1 => some (.pay, 255)
  | 2 => some (.txb, c.frameLen)
  | 3 => some (.rxb, c.frameLen)
  | _ => none

/-- The size of TABLE in bytes (R70). -/
def tableSize : Nat := 172

/-- `Mem[sp][addr]` for MEM.RD, none where the access is out of range (R70, R132). -/
def State.spaceRead (s : State) (sp addr : Nat) : Option Byte :=
  match spaceOf s.cfg sp with
  | some (st, size) => if addr < size then some (s.rd st addr) else none
  | none => if sp = 4 ∧ addr < tableSize then some (tableByte s.cfg addr) else none

/-- The store MEM.WR may write: BLK, PAY and RXB (R70, R133). -/
def writableSpace (c : Config) (sp addr : Nat) : Option Store :=
  match spaceOf c sp with
  | some (st, size) => if sp ≠ 2 ∧ addr < size then some st else none
  | none => none

/-! ## Register operand (`spec/10_state.md` R25, R26) -/

/-- A CSR as read, zero-extended to 16 bits; none for a reserved number (R26, R30). -/
def State.csr (s : State) : Nat → Option Half
  | 0x00 => some (statusWord s)
  | 0x01 => some (s.fg.err.zeroExtend 16)
  | 0x02 => some s.fg.result
  | 0x03 => some s.corr
  | 0x04 => some s.tickCond
  | 0x08 => some (s.tun.duty.zeroExtend 16)
  | 0x09 => some (s.tun.lbt.zeroExtend 16)
  | 0x0A => some s.tun.netid
  | 0x0B => some (s.tun.maxpay.zeroExtend 16)
  | 0x0C => some s.tun.gapto
  | 0x0D => some (s.tun.nodeid.zeroExtend 16)
  | 0x0E => some (BitVec.ofNat 16 s.tun.peerNoRoom.toNat)
  | 0x10 => some s.cnt.rxOvf
  | 0x11 => some s.cnt.txOvf
  | 0x12 => some s.cnt.corr
  | 0x13 => some s.cnt.uncorr
  | 0x18 => some (s.sch.slot.zeroExtend 16)
  | 0x19 => some s.sch.slotTmr
  | 0x1A => some s.sch.dcTx
  | 0x1B => some s.sch.dcElapsed
  | 0x1C => some s.sch.backoff
  | 0x1D => some (s.sch.lastRssi.zeroExtend 16)
  | 0x1E => some (s.sch.retry.zeroExtend 16)
  | 0x1F => some (s.sch.clearCnt.zeroExtend 16)
  | 0x20 => some (s.sch.txSeq.zeroExtend 16)
  | 0x21 => some (s.bridge.credit.zeroExtend 16)
  | 0x22 => some s.bridge.gapTmr
  | 0x23 => some (BitVec.ofNat 16 s.bridge.buildLen)
  | 0x28 => some (s.rx.type.zeroExtend 16)
  | 0x29 => some (s.rx.seq.zeroExtend 16)
  | 0x2A => some (s.rx.sender.zeroExtend 16)
  | 0x2B => some s.rx.netid
  | 0x2C => some (s.rx.len.zeroExtend 16)
  | 0x30 => some (BitVec.ofNat 16 s.cfg.fecK)
  | 0x31 => some (BitVec.ofNat 16 s.cfg.fecN)
  | 0x32 => some (sat16 s.cfg.fecT)
  | 0x33 => some (BitVec.ofNat 16 s.cfg.rxCap)
  | 0x34 => some (BitVec.ofNat 16 s.cfg.txCap)
  | _ => none

/-- The clamp of DUTY (R33). -/
def clampDuty (v : Half) : Byte := BitVec.ofNat 8 (min v.toNat 100)

/-- The clamp of LBT: 0 stays 0, everything else is brought into 25..220 (R34). -/
def clampLbt (v : Half) : Byte :=
  if v.toNat = 0 then 0
  else if v.toNat < 25 then 25
  else if v.toNat ≤ 220 then BitVec.ofNat 8 v.toNat
  else 220

/-- The clamp of MAXPAY into 1..FEC_K (R36). -/
def clampMaxpay (fecK : Nat) (v : Half) : Byte := BitVec.ofNat 8 (max 1 (min v.toNat fecK))

/-- Write PEERNOROOM; a write that leaves it 0 reloads CREDIT (R39, R306). -/
def State.setPeerNoRoom (v : Bool) (s : State) : State :=
  { s with
    tun := { s.tun with peerNoRoom := v }
    bridge := if v then s.bridge else { s.bridge with credit := BitVec.ofNat 8 s.cfg.creditMax } }

/-- The register write of CFG.WR; none for a reserved or read-only register (R30, R31, R134). -/
def State.setCsr (s : State) (r : Nat) (v : Half) : Option State :=
  match r with
  | 0x08 => some { s with tun := { s.tun with duty := clampDuty v } }
  | 0x09 => some { s with tun := { s.tun with lbt := clampLbt v } }
  | 0x0A => some { s with tun := { s.tun with netid := v } }
  | 0x0B => some { s with tun := { s.tun with maxpay := clampMaxpay s.cfg.fecK v } }
  | 0x0C => some { s with tun := { s.tun with gapto := v } }
  | 0x0D => some { s with tun := { s.tun with nodeid := BitVec.ofNat 8 (v.toNat % 256) } }
  | 0x0E => some (s.setPeerNoRoom (v.toNat % 2 == 1))
  | _ => none

/-! ## Port permission (`spec/60_exceptions.md` R351) -/

/-- The kinds of row in the table of R351. -/
inductive Access where
  /-- yes on both ports -/
  | both
  /-- yes on FGCMD, no on IRQCMD -/
  | foreground
  /-- STX only on FGCMD, SRX only on IRQCMD: RB.PUSH -/
  | producer (ring : Nat)
  /-- SRX only on FGCMD, STX only on IRQCMD: RB.POP, RB.PEEK -/
  | consumer (ring : Nat)
  /-- STX only on FGCMD, no on IRQCMD: RB.PUSHS -/
  | fgProducer (ring : Nat)
  /-- SRX only on FGCMD, no on IRQCMD: RB.POPS -/
  | fgConsumer (ring : Nat)
deriving DecidableEq, Repr

/-- A cell of R351. "In a cell that depends on the ring operand, a ring operand above 1 passes this step". -/
def Access.allows : Access → Port → Bool
  | .both, _ => true
  | .foreground, .fg => true
  | .foreground, .irq => false
  | .producer ring, .fg => ring != 0
  | .producer ring, .irq => ring != 1
  | .consumer ring, .fg => ring != 1
  | .consumer ring, .irq => ring != 0
  | .fgProducer ring, .fg => ring != 0
  | .fgProducer _, .irq => false
  | .fgConsumer ring, .fg => ring != 1
  | .fgConsumer _, .irq => false

/-- The row of R351 a command belongs to. -/
def accessOf : Instr → Access
  | .nop => .both
  | .memRd .. => .foreground
  | .memWr .. => .foreground
  | .cfgWr .. => .foreground
  | .cfgRd .. => .foreground
  | .ctlReset => .foreground
  | .ilvGetbit .. => .foreground
  | .ilvSetbit .. => .foreground
  | .ilvGetbyte .. => .foreground
  | .ilvSetbyte .. => .foreground
  | .ilvPhys .. => .foreground
  | .frmFrame .. => .foreground
  | .frmDeframe => .foreground
  | .schTick => .foreground
  | .schHbreq => .foreground
  | .schHbclr => .foreground
  | .schSubmit .. => .foreground
  | .schRpclr => .foreground
  | .rbPush ring _ => .producer ring
  | .rbPop ring => .consumer ring
  | .rbPeek ring _ => .consumer ring
  | .rbFree _ => .both
  | .rbUsed _ => .both
  | .rbReset _ => .foreground
  | .rbPushs ring _ => .fgProducer ring
  | .rbPops ring _ => .fgConsumer ring
  | .brDrain => .foreground
  | .brRoom => .foreground
  | .brDeliver _ => .foreground

/-- The command may run on the port (R351). -/
def permitted (i : Instr) (p : Port) : Bool := (accessOf i).allows p

/-- The four commands that run while FATAL is set (R345). -/
def exemptWhenFatal : Instr → Bool
  | .nop => true
  | .memRd .. => true
  | .cfgRd .. => true
  | .ctlReset => true
  | _ => false

/-- Steps (2) and (3) of R104, then the command's own Operation. Every command ends in a next state. -/
def gate (i : Instr) (operation : State → State) (s : State) : Host.Outcome State Fault Refusal :=
  .next
    (if permitted i s.port = false then s.raise .roleViolation
     else if s.fatal = true ∧ exemptWhenFatal i = false then s.raise .fatalLatched
     else operation s)

end Sys2Proof.Machine
end

