-- ==== Sys2Proof/Machine/Interleaver.lean ====
section
/-! DEFINITION. The bit-interleaver: its index formula, its whole-block functions, and the five ILV commands
(`spec/42_interleaver.md`). -/

namespace Sys2Proof.Machine

/-! ## The permutation -/

/-- The stride of a block of `n` bytes: `STRIDE[n div 3]` (R182). -/
def strideOf (c : Config) (n : Nat) : Nat := c.stride.getD (n / 3) 0

/-- `SUPPORTED(n)`: `1 <= n <= 255` and `gcd(STRIDE[n div 3], 8n) = 1` (R183). -/
def supported (c : Config) (n : Nat) : Bool := 1 ≤ n && n ≤ 255 && Nat.gcd (strideOf c n) (8 * n) == 1

/-- `PHYS(n, i) = (i * STRIDE[n div 3]) mod (8n)`, the product on unbounded naturals (R181). -/
def phys (c : Config) (n i : Nat) : Nat := i * strideOf c n % (8 * n)

/-! ## Single bits and bytes of a block -/

/-- Physical bit `p` of a block whose bytes `rd` gives (R79). -/
def physBit (rd : Nat → Byte) (p : Nat) : Bool := byteBit (rd (p / 8)) (p % 8)

/-- `get_byte`: logical byte `k`, gathered through PHYS (R188). -/
def gatherByte (c : Config) (n : Nat) (rd : Nat → Byte) (k : Nat) : Byte :=
  byteOfBits fun j => physBit rd (phys c n (8 * k + j))

/-- Set physical bit `p` of a block held as a list (R79, R187). -/
def setPhysBit (p : Nat) (v : Bool) (block : List Byte) : List Byte :=
  block.modify (p / 8) fun b => setByteBit b (p % 8) v

/-- `set_byte`: logical byte `k`, scattered through PHYS (R189). -/
def scatterByte (c : Config) (n : Nat) (block : List Byte) (k : Nat) (val : Byte) : List Byte :=
  (List.range 8).foldl (fun b j => setPhysBit (phys c n (8 * k + j)) (byteBit val j) b) block

/-- `Interleave(n, B)` (R190). -/
def interleave (c : Config) (n : Nat) (block : List Byte) : List Byte :=
  (List.range n).foldl (fun acc k => scatterByte c n acc k (block.getD k 0)) (List.replicate n 0)

/-- `Deinterleave(n, I)` (R190). -/
def deinterleave (c : Config) (n : Nat) (block : List Byte) : List Byte :=
  (List.range n).map (gatherByte c n fun q => block.getD q 0)

/-- Set physical bit `p` of BLK, a read-modify-write of one byte (R83, R187). -/
def State.setBlkBit (p : Nat) (v : Bool) (s : State) : State :=
  s.wr .blk (p / 8) (setByteBit (s.rd .blk (p / 8)) (p % 8) v)

/-- `set_byte` on BLK: eight bit writes (R189). -/
def State.scatterBlk (n k : Nat) (val : Byte) (s : State) : State :=
  (List.range 8).foldl (fun t j => t.setBlkBit (phys s.cfg n (8 * k + j)) (byteBit val j)) s

/-! ## The commands -/

/-- The size check, then the index check, common to the ILV commands (R193, R194). -/
def State.ilvCheck (n : Nat) (inRange : Bool) (operation : State → State) (s : State) : State :=
  if supported s.cfg n = false then s.raise .invalidBlockSize
  else if inRange = false then s.raise .rangeError
  else operation s

/-- ILV.PHYS n, idx (R185). -/
def execIlvPhys (n idx : Nat) (s : State) : Host.Outcome State Fault Refusal :=
  gate (.ilvPhys n idx)
    (fun t => t.ilvCheck n (decide (idx < 8 * n)) fun u => u.answer (BitVec.ofNat 16 (phys u.cfg n idx))) s

/-- ILV.GETBIT n, idx (R186). -/
def execIlvGetbit (n idx : Nat) (s : State) : Host.Outcome State Fault Refusal :=
  gate (.ilvGetbit n idx)
    (fun t => t.ilvCheck n (decide (idx < 8 * n)) fun u =>
      u.answer (BitVec.ofNat 16 (physBit (u.rd .blk) (phys u.cfg n idx)).toNat)) s

/-- ILV.SETBIT n, v, idx (R187). -/
def execIlvSetbit (n : Nat) (v : Bool) (idx : Nat) (s : State) : Host.Outcome State Fault Refusal :=
  gate (.ilvSetbit n v idx)
    (fun t => t.ilvCheck n (decide (idx < 8 * n)) fun u => (u.setBlkBit (phys u.cfg n idx) v).done) s

/-- ILV.GETBYTE n, k (R188). -/
def execIlvGetbyte (n k : Nat) (s : State) : Host.Outcome State Fault Refusal :=
  gate (.ilvGetbyte n k)
    (fun t => t.ilvCheck n (decide (k < n)) fun u =>
      u.answer ((gatherByte u.cfg n (u.rd .blk) k).zeroExtend 16)) s

/-- ILV.SETBYTE n, k, val (R189). -/
def execIlvSetbyte (n k : Nat) (val : Byte) (s : State) : Host.Outcome State Fault Refusal :=
  gate (.ilvSetbyte n k val)
    (fun t => t.ilvCheck n (decide (k < n)) fun u => (u.scatterBlk n k val).done) s

end Sys2Proof.Machine
end

