-- ==== Sys2Proof/Machine/Framer.lean ====
section
/-! DEFINITION. The packet framer: `Frame`, `Deframe`, FRM.FRAME and FRM.DEFRAME (`spec/43_framer.md`). -/

namespace Sys2Proof.Machine

/-- The payload brought to FEC_K bytes: cut, or padded with zeros (R212). -/
def padBlock (c : Config) (payload : List Byte) : List Byte :=
  payload.take c.fecK ++ List.replicate (c.fecK - min payload.length c.fecK) 0

/-- The six header bytes (R213): type, sequence number, sender, network id low and high, true length. -/
def frameHeader (type seq sender : Byte) (netid : Half) (len : Nat) : List Byte :=
  [type, seq, sender, BitVec.ofNat 8 (netid.toNat % 256), BitVec.ofNat 8 (netid.toNat / 256), BitVec.ofNat 8 len]

/-- `Frame(type, seq, sender, netid, P)`: the radio block and the interleaved block (R212). -/
def frame (c : Config) (type seq sender : Byte) (netid : Half) (payload : List Byte) : List Byte × List Byte :=
  let block := interleave c c.fecK (padBlock c payload)
  (frameHeader type seq sender netid (min payload.length c.fecK) ++ fecEncode c block, block)

/-- What a successful `Deframe` gives (R216). -/
structure Deframed where
  type : Byte
  seq : Byte
  sender : Byte
  netid : Half
  payload : List Byte
  corrected : Nat
  /-- the interleaved block the decoder gave -/
  block : List Byte
deriving DecidableEq, Repr

/-- The outcomes of `Deframe` (R216, R217). -/
inductive DeframeResult where
  | ok (d : Deframed)
  | badLength
  | uncorrectable
deriving DecidableEq, Repr

/-- The network id in a frame's header, low byte first (R213, R243). -/
def frameNetid (radio : List Byte) : Half :=
  BitVec.ofNat 16 ((radio.getD 3 0).toNat + 256 * (radio.getD 4 0).toNat)

/-- `Deframe(R)`: the length is checked before any decoding (R216, R217). -/
def deframe (c : Config) (radio : List Byte) : DeframeResult :=
  if c.fecK < (radio.getD 5 0).toNat then .badLength
  else
    match fecDecode c ((radio.drop Config.hdrLen).take c.fecN) with
    | .uncorrectable => .uncorrectable
    | .ok block corrected =>
      .ok
        { type := radio.getD 0 0
          seq := radio.getD 1 0
          sender := radio.getD 2 0
          netid := frameNetid radio
          payload := (deinterleave c c.fecK block).take (radio.getD 5 0).toNat
          corrected := corrected
          block := block }

/-- Write the interleaved block to BLK and the frame to TXB (R220, R256). -/
def State.storeFrame (radio block : List Byte) (s : State) : State :=
  (s.writeBytes .blk 0 block).writeBytes .txb 0 radio

/-- Write a deframed packet: BLK, PAY, the received-header registers and CORR (R221, R244). -/
def State.storeDeframed (d : Deframed) (s : State) : State :=
  { (s.writeBytes .blk 0 d.block).writeBytes .pay 0 d.payload with
    rx :=
      { type := d.type, seq := d.seq, sender := d.sender, netid := d.netid, len := BitVec.ofNat 8 d.payload.length }
    corr := sat16 d.corrected }

/-- The frame that FRM.FRAME and the transmitter build from the block's own registers (R220, R256). -/
def State.frameOf (s : State) (type : Byte) (payload : List Byte) : List Byte × List Byte :=
  frame s.cfg type s.sch.txSeq s.tun.nodeid s.tun.netid payload

/-- FRM.FRAME type, len (R220). -/
def execFrmFrame (type : Byte) (len : Nat) (s : State) : Host.Outcome State Fault Refusal :=
  gate (.frmFrame type len)
    (fun t =>
      if supported t.cfg t.cfg.fecK = false then t.raise .invalidBlockSize
      else
        let (radio, block) := t.frameOf type (t.readBytes .pay len)
        (t.storeFrame radio block).answer (BitVec.ofNat 16 t.cfg.frameLen)) s

/-- FRM.DEFRAME (R221). -/
def execFrmDeframe (s : State) : Host.Outcome State Fault Refusal :=
  gate .frmDeframe
    (fun t =>
      if supported t.cfg t.cfg.fecK = false then t.raise .invalidBlockSize
      else
        match deframe t.cfg (t.readBytes .rxb t.cfg.frameLen) with
        | .badLength => t.raise .badLength
        | .uncorrectable => t.raise .frameUncorrectable
        | .ok d => (t.storeDeframed d).answer (BitVec.ofNat 16 d.payload.length)) s

end Sys2Proof.Machine
end

