-- ==== Sys2Proof/Machine/Tick.lean ====
section
/-! DEFINITION. The sub-steps of a tick: the bridge timer and handover, the receive step, the time accounting and the
three state actions (`spec/44_scheduler.md` R241 to R260, `spec/45_serial_bridge.md` R300, R302). They are put together
in `Machine/Bulk.lean`. -/

namespace Sys2Proof.Machine

/-! ## Packet type tags (`spec/43_framer.md` R215) -/

/-- DATA -/
def tagData : Byte := 0
/-- HEARTBEAT -/
def tagHeartbeat : Byte := 1
/-- REMOTE_AT -/
def tagRemoteAt : Byte := 2
/-- REMOTE_AT_REPLY -/
def tagReply : Byte := 3

/-! ## T1: the bridge (`spec/45_serial_bridge.md`) -/

/-- `BridgeTimer()` (R300). -/
def State.bridgeTimer (s : State) : State :=
  if 0 < s.bridge.buildLen then { s with bridge := { s.bridge with gapTmr := sat16 (s.bridge.gapTmr.toNat + 1) } }
  else s

/-- Append one byte to the build buffer (R301). -/
def State.appendBuild (b : Byte) (s : State) : State :=
  { s.wr .build s.bridge.buildLen b with bridge := { s.bridge with buildLen := s.bridge.buildLen + 1, gapTmr := 0 } }

/-- The packet in the build buffer is ready and its place is free (R302). -/
def State.handoverReady (s : State) : Bool :=
  decide (0 < s.bridge.buildLen)
    && (decide (s.tun.maxpay.toNat ≤ s.bridge.buildLen) || decide (s.tun.gapto.toNat ≤ s.bridge.gapTmr.toNat))
    && s.txPending.isNone

/-- The handover: `build[0 .. build_len)` becomes the pending packet (R302). -/
def State.handover (s : State) : State :=
  { s with
    txPending := some ⟨tagData, s.readBytes .build s.bridge.buildLen⟩
    bridge := { s.bridge with buildLen := 0, gapTmr := 0 } }

/-! ## T2: the receive step -/

/-- `RemoteAt(P)` (R246). -/
def State.remoteAt (payload : List Byte) (s : State) : State :=
  let (reply, t) := s.askDispatch payload
  let t := t.setCond condRxDispatched
  match reply with
  | some r => { t with replyPending := some (r.take 255) }
  | none => t

/-- What becomes of a deframed packet (R244): the payload to deliver to STX, if any, and the state. -/
def State.acceptPacket (d : Deframed) (s : State) : Option (List Byte) × State :=
  let t := s.storeDeframed d
  let t := if 0 < d.corrected then { t with cnt := { t.cnt with corr := satInc t.cnt.corr } } else t
  if d.type = tagData ∨ d.type = tagReply then (some d.payload, t)
  else if d.type = tagRemoteAt then (none, t.remoteAt d.payload)
  else (none, t.setCond condRxDropped)

/-- A frame of this node's network is in RXB: deframe and count it (R244). -/
def State.receiveFrame (radio : List Byte) (s : State) : Option (List Byte) × State :=
  match deframe s.cfg radio with
  | .badLength => (none, s.setCond condRxDropped)
  | .uncorrectable =>
    (none, { s with cnt := { s.cnt with uncorr := satInc s.cnt.uncorr } }.setCond condRxUncorrectable)
  | .ok d => s.acceptPacket d

/-- `ReceiveStep()` up to the delivery (R243): a frame of the wrong length or another network is dropped. -/
def State.receiveStep (s : State) : Option (List Byte) × State :=
  let (answer, t) := s.askReceive
  match answer with
  | none => (none, t)
  | some radio =>
    let t := t.setCond condRxFrame
    if radio.length ≠ t.cfg.frameLen then (none, t.setCond condRxDropped)
    else
      let t := t.writeBytes .rxb 0 radio
      if frameNetid radio ≠ t.tun.netid then (none, t.setCond condRxDropped)
      else t.receiveFrame radio

/-! ## T3: time accounting -/

/-- `DutyWindow()` (R247). -/
def State.dutyWindow (s : State) : State :=
  if s.cfg.dcWindowTicks < s.sch.dcElapsed.toNat + 1 then { s with sch := { s.sch with dcElapsed := 1, dcTx := 0 } }
  else { s with sch := { s.sch with dcElapsed := BitVec.ofNat 16 (s.sch.dcElapsed.toNat + 1) } }

/-- Move to a slot and tune the radio to it (R248). -/
def State.changeSlot (slot : Byte) (s : State) : State :=
  ({ s with sch := { s.sch with slot := slot } }.record (.setChannel slot)).setCond condSlotChanged

/-- `SlotRotate()` (R248). -/
def State.slotRotate (s : State) : State :=
  if s.sch.slotTmr.toNat + 1 < s.cfg.slotTicks then
    { s with sch := { s.sch with slotTmr := BitVec.ofNat 16 (s.sch.slotTmr.toNat + 1) } }
  else
    let t := { s with sch := { s.sch with slotTmr := 0 } }
    let new := (t.sch.slot.toNat + 1) % t.cfg.numSlots
    if new = t.sch.slot.toNat then t else t.changeSlot (BitVec.ofNat 8 new)

/-! ## T4: the three states -/

/-- `sch_state <- ...` -/
def State.setSch (st : SchState) (s : State) : State := { s with sch := { s.sch with state := st } }

/-- `EnterBackoff()`: RETRY goes up first, and BackoffFn sees the new value (R258). -/
def State.enterBackoff (s : State) : State :=
  let retry := satInc8 s.sch.retry
  { s with
    sch :=
      { s.sch with
        retry := retry
        backoff := BitVec.ofNat 16 (backoffFn s.cfg s.tun.netid.toNat s.sch.slot.toNat retry.toNat)
        state := .backoff } }

/-- The busy test: either source can declare the channel busy; an RSSI equal to the threshold is busy (R251, C4). -/
def channelBusy (lbt : Byte) (clear : Bool) (rssi : Byte) : Bool :=
  !clear || (lbt != 0 && decide (lbt.toNat ≤ rssi.toNat))

/-- `Listen()` (R252). -/
def State.listen (s : State) : State :=
  let (clear, t) := s.askChannelClear
  let (rssi, t) := t.askRssi
  let t := { t with sch := { t.sch with lastRssi := rssi } }
  if channelBusy t.tun.lbt clear rssi then
    { t.setCond condChannelBusy with sch := { t.sch with clearCnt := 0 } }.enterBackoff
  else
    let t := { t with sch := { t.sch with clearCnt := satInc8 t.sch.clearCnt } }
    if t.cfg.minClearTicks ≤ t.sch.clearCnt.toNat then t.setSch .transmitWindow else t

/-- Which pending slot a candidate came from (R253). -/
inductive Source where
  | reply
  | heartbeat
  | tx
deriving DecidableEq, Repr

/-- A packet chosen for transmission (R253). -/
structure Candidate where
  type : Byte
  payload : List Byte
  source : Source
deriving DecidableEq, Repr

/-- `DataCandidate(t, P)`: data is held back while the peer has no room and credit lasts (R254, R306). -/
def State.dataCandidate (p : Packet) (s : State) : Option Candidate × State :=
  if s.tun.peerNoRoom = true ∧ p.type = tagData ∧ 0 < s.bridge.credit.toNat then
    (none,
      { s with bridge := { s.bridge with credit := BitVec.ofNat 8 (s.bridge.credit.toNat - 1) } }.setCond
        condDataSuppressed)
  else (some ⟨p.type, p.payload, .tx⟩, s)

/-- The choice of a candidate: reply, then heartbeat, then `tx_pending` (R253). -/
def State.chooseCandidate (s : State) : Option Candidate × State :=
  match s.replyPending with
  | some q => (some ⟨tagReply, q, .reply⟩, s)
  | none =>
    if s.hbReq then (some ⟨tagHeartbeat, heartbeatPayload s, .heartbeat⟩, s)
    else
      match s.txPending with
      | some p => s.dataCandidate p
      | none => (none, s)

/-- The duty-cycle budget is exhausted (R255). -/
def State.noBudget (s : State) : Bool :=
  s.tun.duty != 0
    && decide (s.tun.duty.toNat * s.sch.dcElapsed.toNat < (s.sch.dcTx.toNat + Config.txCost) * 100)

/-- Empty the pending slot a transmitted candidate came from (R256). -/
def State.clearSource (src : Source) (s : State) : State :=
  match src with
  | .reply => { s with replyPending := none }
  | .heartbeat => { s with hbReq := false }
  | .tx => { s with txPending := none }

/-- A keyed transmission: charge the window, advance TXSEQ, forget the retries, empty the slot (R256). -/
def State.transmitted (src : Source) (s : State) : State :=
  { (s.setCond condTxDone).clearSource src with
    sch :=
      { s.sch with
        dcTx := BitVec.ofNat 16 (s.sch.dcTx.toNat + Config.txCost)
        txSeq := BitVec.ofNat 8 ((s.sch.txSeq.toNat + 1) % 256)
        retry := 0 } }

/-- Frame the candidate and key the transmitter (R256, R257). -/
def State.keyTransmitter (k : Candidate) (s : State) : State :=
  let (radio, block) := s.frameOf k.type k.payload
  let (ok, t) := (s.storeFrame radio block).askTransmit radio
  (if ok then t.transmitted k.source else t.setCond condTxFailed).setSch .listen

/-- `TransmitWindow()` (R253 to R257). -/
def State.transmitWindow (s : State) : State :=
  let (cand, t) := { s with sch := { s.sch with clearCnt := 0 } }.chooseCandidate
  match cand with
  | none => t.setSch .listen
  | some k => if t.noBudget then (t.setCond condDutyExhausted).enterBackoff else t.keyTransmitter k

/-- `Backoff()` (R259). -/
def State.backoffTick (s : State) : State :=
  let t := { s with sch := { s.sch with backoff := BitVec.ofNat 16 (s.sch.backoff.toNat - 1) } }
  if t.sch.backoff.toNat = 0 then t.setSch .listen else t

/-- T4: one state action, chosen by the state when T4 begins (R241). -/
def State.stateAction (s : State) : State :=
  match s.sch.state with
  | .listen => s.listen
  | .transmitWindow => s.transmitWindow
  | .backoff => s.backoffTick

/-- T3 and T4 (R241). -/
def State.timeAndState (s : State) : State := s.dutyWindow.slotRotate.stateAction

end Sys2Proof.Machine
end

