-- ==== Sys2Proof/Machine/Bulk.lean ====
section
/-! DEFINITION. Bulk commands as sequences of micro-steps (`spec/20_memory.md` R82).

One micro-step is one `try_push` or `try_pop` with the copy that belongs to it. What a bulk command does beside its
ring operations belongs to the micro-step before it, or, when none came before it, to the one after (log 7). A bulk
command runs on FGCMD only (R351), so it answers in RESULT and ERR whichever port another command used meanwhile. -/

namespace Sys2Proof.Machine

/-- A bulk command waits for its next micro-step. -/
def State.suspend (b : Bulk) (s : State) : State := { s with bulk := some b }

/-- A bulk command that returns a value is complete (R131, R160, R161, R307). -/
def State.finishBulk (result : Half) (err : Byte) (s : State) : State := { s with fg := ⟨result, err⟩, bulk := none }

/-- T3 and T4, and the tick is complete: ERR becomes 0 and RESULT is unchanged (R241). -/
def State.finishTick (s : State) : State :=
  let t := s.timeAndState
  { t with fg := { t.fg with err := 0 }, bulk := none }

/-- The push loop is over: `count` bytes were pushed, and all of them unless `full` (R160, R245, R303). -/
def State.endPush (inTick full : Bool) (count : Nat) (s : State) : State :=
  if inTick then ((s.setCond condRxDelivered).setCondIf full condRxOverflow).finishTick
  else s.finishBulk (BitVec.ofNat 16 count) (if full then ErrCode.bufferFull.code else 0)

/-- One micro-step of the push loop to STX (R160): the first failed push counts one overflow and ends the loop. -/
def State.pushStep (inTick : Bool) (rest : List Byte) (count : Nat) (s : State) : State :=
  match rest with
  | [] => s.endPush inTick false count
  | b :: more =>
    match s.tryPush .stx b with
    | none => (s.countOverflow .stx).endPush inTick true count
    | some t => if more = [] then t.endPush inTick false (count + 1) else t.suspend (.push inTick more (count + 1))

/-- One micro-step of the pop loop from SRX to PAY (R161). -/
def State.popStep (max count : Nat) (s : State) : State :=
  if max ≤ count then s.finishBulk (BitVec.ofNat 16 count) 0
  else
    match s.tryPop .srx with
    | none => s.finishBulk (BitVec.ofNat 16 count) 0
    | some (b, t) =>
      let u := t.wr .pay count b
      if max ≤ count + 1 then u.finishBulk (BitVec.ofNat 16 (count + 1)) 0 else u.suspend (.pop max (count + 1))

/-- T2 to T4 of a tick (R241). `popped` says that this micro-step has already made its ring operation, so that the
first push of a delivery is left to the next one (log 7). -/
def State.tickReceive (popped : Bool) (s : State) : State :=
  let (delivery, t) := s.receiveStep
  match delivery with
  | none => t.finishTick
  | some payload =>
    if popped && !payload.isEmpty then t.suspend (.push true payload 0) else t.pushStep true payload 0

/-- The drain loop is over: the handover, then the end of BR.DRAIN or the rest of the tick (R302, R307, R241). -/
def State.endDrain (inTick popped : Bool) (s : State) : State :=
  let ready := s.handoverReady
  let t := if ready then s.handover else s
  if inTick then (t.setCondIf ready condHandover).tickReceive popped
  else t.finishBulk (BitVec.ofNat 16 ready.toNat) 0

/-- One micro-step of the drain loop (R301). -/
def State.drainStep (inTick : Bool) (s : State) : State :=
  if s.tun.maxpay.toNat ≤ s.bridge.buildLen then s.endDrain inTick false
  else
    match s.tryPop .srx with
    | none => s.endDrain inTick true
    | some (b, t) =>
      let u := t.appendBuild b
      if u.tun.maxpay.toNat ≤ u.bridge.buildLen then u.endDrain inTick true else u.suspend (.drain inTick)

/-- One micro-step of a bulk command. -/
def Bulk.step : Bulk → State → State
  | .push inTick rest count, s => s.pushStep inTick rest count
  | .pop max count, s => s.popStep max count
  | .drain inTick, s => s.drainStep inTick

/-- One micro-step of the bulk command in progress, if any. -/
def State.microStep (s : State) : State :=
  match s.bulk with
  | some b => b.step s
  | none => s

/-- The bulk command in progress run to its end with no other agent's step in between, in at most `fuel`
micro-steps. No part of the machine; statements about a whole bulk command use it. -/
def State.runBulk : Nat → State → State
  | 0, s => s
  | n + 1, s => if s.bulk.isSome then State.runBulk n s.microStep else s

end Sys2Proof.Machine
end

