-- ==== Sys2Proof/Machine/Access.lean ====
section
/-! DEFINITION. The access and configuration commands (`spec/40_access_config.md`). -/

namespace Sys2Proof.Machine

/-- NOP (R130). -/
def execNop (s : State) : Host.Outcome State Fault Refusal := gate .nop State.done s

/-- MEM.RD sp, addr (R132). -/
def execMemRd (sp addr : Nat) (s : State) : Host.Outcome State Fault Refusal :=
  gate (.memRd sp addr)
    (fun t =>
      match t.spaceRead sp addr with
      | some b => t.answer (b.zeroExtend 16)
      | none => t.raise .rangeError) s

/-- MEM.WR sp, addr, val (R133). -/
def execMemWr (sp addr : Nat) (val : Byte) (s : State) : Host.Outcome State Fault Refusal :=
  gate (.memWr sp addr val)
    (fun t =>
      match writableSpace t.cfg sp addr with
      | some st => (t.wr st addr val).done
      | none => t.raise .rangeError) s

/-- CFG.WR r, imm (R134). -/
def execCfgWr (r : Nat) (imm : Half) (s : State) : Host.Outcome State Fault Refusal :=
  gate (.cfgWr r imm)
    (fun t =>
      match t.setCsr r imm with
      | some u => u.done
      | none => t.raise .rangeError) s

/-- CFG.RD r: the value read is the one before this command changes ERR or RESULT (R135). -/
def execCfgRd (r : Nat) (s : State) : Host.Outcome State Fault Refusal :=
  gate (.cfgRd r)
    (fun t =>
      match t.csr r with
      | some v => t.answer v
      | none => t.raise .rangeError) s

/-- CTL.RESET (R136). -/
def execCtlReset (s : State) : Host.Outcome State Fault Refusal := gate .ctlReset State.softReset s

end Sys2Proof.Machine
end

