-- ==== Sys2Proof/Machine/Bridge.lean ====
section
/-! DEFINITION. The serial bridge commands (`spec/45_serial_bridge.md`). -/

namespace Sys2Proof.Machine

/-- BR.DRAIN: the first micro-step of the drain (R307). -/
def execBrDrain (s : State) : Host.Outcome State Fault Refusal := gate .brDrain (State.drainStep false) s

/-- BR.ROOM: STX has room for one payload of the largest configured size (R304). -/
def execBrRoom (s : State) : Host.Outcome State Fault Refusal :=
  gate .brRoom (fun t => t.answer (if t.tun.maxpay.toNat ≤ t.ringFree .stx then 1 else 0)) s

/-- BR.DELIVER len: the first micro-step of the push loop of R160 on ring STX (R303). -/
def execBrDeliver (len : Nat) (s : State) : Host.Outcome State Fault Refusal :=
  gate (.brDeliver len) (fun t => t.pushStep false (t.readBytes .pay len) 0) s

end Sys2Proof.Machine
end

