-- ==== Sys2Proof/Machine/RingBuffer.lean ====
section
/-! DEFINITION. The ring buffer commands (`spec/41_ring_buffer.md`). -/

namespace Sys2Proof.Machine

/-- The ring operand's range check, common to the RB commands (R107, R338). -/
def State.withRing (ring : Nat) (operation : Ring → State → State) (s : State) : State :=
  match ringOf ring with
  | some r => operation r s
  | none => s.raise .rangeError

/-- RB.PUSH ring, byte: a failed push answers RESULT 0 and ERR 1 and counts an overflow (R153, R165). -/
def execRbPush (ring : Nat) (byte : Byte) (s : State) : Host.Outcome State Fault Refusal :=
  gate (.rbPush ring byte)
    (fun t => t.withRing ring fun r u =>
      match u.tryPush r byte with
      | some v => v.answer 1
      | none => (u.countOverflow r).setRegs u.port ⟨0, ErrCode.bufferFull.code⟩) s

/-- RB.POP ring (R154). -/
def execRbPop (ring : Nat) (s : State) : Host.Outcome State Fault Refusal :=
  gate (.rbPop ring)
    (fun t => t.withRing ring fun r u =>
      match u.tryPop r with
      | some (b, v) => v.answer (b.zeroExtend 16)
      | none => u.raise .bufferEmpty) s

/-- RB.PEEK ring, offset (R155). -/
def execRbPeek (ring offset : Nat) (s : State) : Host.Outcome State Fault Refusal :=
  gate (.rbPeek ring offset)
    (fun t => t.withRing ring fun r u =>
      if u.ringUsed r ≤ offset then u.raise .bufferEmpty
      else u.answer ((u.ringPeek r offset).zeroExtend 16)) s

/-- RB.USED ring (R157). -/
def execRbUsed (ring : Nat) (s : State) : Host.Outcome State Fault Refusal :=
  gate (.rbUsed ring) (fun t => t.withRing ring fun r u => u.answer (BitVec.ofNat 16 (u.ringUsed r))) s

/-- RB.FREE ring (R158). -/
def execRbFree (ring : Nat) (s : State) : Host.Outcome State Fault Refusal :=
  gate (.rbFree ring) (fun t => t.withRing ring fun r u => u.answer (BitVec.ofNat 16 (u.ringFree r))) s

/-- RB.RESET ring: both cursors to 0, the storage and the counters as they were (R159). -/
def execRbReset (ring : Nat) (s : State) : Host.Outcome State Fault Refusal :=
  gate (.rbReset ring) (fun t => t.withRing ring fun r u => (u.setCursors r .empty).done) s

/-- RB.PUSHS ring, len: the first micro-step of the push loop (R160). The port check leaves ring STX, or a ring above
1, which is out of range; the bytes are PAY's, which nothing can change while the command runs (log 16). -/
def execRbPushs (ring len : Nat) (s : State) : Host.Outcome State Fault Refusal :=
  gate (.rbPushs ring len)
    (fun t => t.withRing ring fun _ u => u.pushStep false (u.readBytes .pay len) 0) s

/-- RB.POPS ring, max: the first micro-step of the pop loop (R161). -/
def execRbPops (ring max : Nat) (s : State) : Host.Outcome State Fault Refusal :=
  gate (.rbPops ring max) (fun t => t.withRing ring fun _ u => u.popStep max 0) s

end Sys2Proof.Machine
end

