-- ==== Sys2Proof/Machine/Scheduler.lean ====
section
/-! DEFINITION. The scheduler commands (`spec/44_scheduler.md`). -/

namespace Sys2Proof.Machine

/-- SCH.TICK: the block-size check, TICKCOND cleared, the bridge timer, and the first micro-step of the drain, which
goes on to the rest of the tick (R241). -/
def execSchTick (s : State) : Host.Outcome State Fault Refusal :=
  gate .schTick
    (fun t =>
      if supported t.cfg t.cfg.fecK = false then t.raise .invalidBlockSize
      else { t with tickCond := 0 }.bridgeTimer.drainStep true) s

/-- SCH.SUBMIT type, len: only DATA and REMOTE_AT, at most MAXPAY bytes, only into an empty slot (R262). -/
def execSchSubmit (type : Byte) (len : Nat) (s : State) : Host.Outcome State Fault Refusal :=
  gate (.schSubmit type len)
    (fun t =>
      if (type ≠ tagData ∧ type ≠ tagRemoteAt) ∨ t.tun.maxpay.toNat < len then t.raise .rangeError
      else if t.txPending.isSome then t.raise .pendingOccupied
      else { t with txPending := some ⟨type, t.readBytes .pay len⟩ }.done) s

/-- SCH.HBREQ (R263). -/
def execSchHbreq (s : State) : Host.Outcome State Fault Refusal :=
  gate .schHbreq (fun t => { t with hbReq := true }.done) s

/-- SCH.HBCLR (R264). -/
def execSchHbclr (s : State) : Host.Outcome State Fault Refusal :=
  gate .schHbclr (fun t => { t with hbReq := false }.done) s

/-- SCH.RPCLR (R265). -/
def execSchRpclr (s : State) : Host.Outcome State Fault Refusal :=
  gate .schRpclr (fun t => { t with replyPending := none }.done) s

end Sys2Proof.Machine
end

