-- ==== Sys2Proof/Machine/Dispatch.lean ====
section
/-! DEFINITION. The dispatch of a decoded command to its meaning, in the order of `spec/30_encoding.md` R106. -/

namespace Sys2Proof.Machine

def exec (i : Instr) (s : State) : Host.Outcome State Fault Refusal :=
  match i with
  | .nop => Sys2Proof.Machine.execNop s
  | .memRd sp addr => Sys2Proof.Machine.execMemRd sp addr s
  | .memWr sp addr val => Sys2Proof.Machine.execMemWr sp addr val s
  | .cfgWr r imm => Sys2Proof.Machine.execCfgWr r imm s
  | .cfgRd r => Sys2Proof.Machine.execCfgRd r s
  | .ctlReset => Sys2Proof.Machine.execCtlReset s
  | .ilvGetbit n idx => Sys2Proof.Machine.execIlvGetbit n idx s
  | .ilvSetbit n v idx => Sys2Proof.Machine.execIlvSetbit n v idx s
  | .ilvGetbyte n k => Sys2Proof.Machine.execIlvGetbyte n k s
  | .ilvSetbyte n k val => Sys2Proof.Machine.execIlvSetbyte n k val s
  | .ilvPhys n idx => Sys2Proof.Machine.execIlvPhys n idx s
  | .frmFrame type len => Sys2Proof.Machine.execFrmFrame type len s
  | .frmDeframe => Sys2Proof.Machine.execFrmDeframe s
  | .schTick => Sys2Proof.Machine.execSchTick s
  | .schHbreq => Sys2Proof.Machine.execSchHbreq s
  | .schHbclr => Sys2Proof.Machine.execSchHbclr s
  | .schSubmit type len => Sys2Proof.Machine.execSchSubmit type len s
  | .schRpclr => Sys2Proof.Machine.execSchRpclr s
  | .rbPush ring byte => Sys2Proof.Machine.execRbPush ring byte s
  | .rbPop ring => Sys2Proof.Machine.execRbPop ring s
  | .rbPeek ring offset => Sys2Proof.Machine.execRbPeek ring offset s
  | .rbFree ring => Sys2Proof.Machine.execRbFree ring s
  | .rbUsed ring => Sys2Proof.Machine.execRbUsed ring s
  | .rbReset ring => Sys2Proof.Machine.execRbReset ring s
  | .rbPushs ring len => Sys2Proof.Machine.execRbPushs ring len s
  | .rbPops ring max => Sys2Proof.Machine.execRbPops ring max s
  | .brDrain => Sys2Proof.Machine.execBrDrain s
  | .brRoom => Sys2Proof.Machine.execBrRoom s
  | .brDeliver len => Sys2Proof.Machine.execBrDeliver len s

end Sys2Proof.Machine
end

