-- ==== Sys2Proof/Machine/Ports.lean ====
section
/-! DEFINITION. What happens next at the two ports: which agent moves, and how a command word is accepted
(`spec/30_encoding.md` R100, R104, R105; `spec/20_memory.md` R82, R85). -/

namespace Sys2Proof.Machine

/-- What the next step is, with the state after the inputs it uses up are taken. -/
inductive Move where
  /-- nothing is presented and nothing is in progress -/
  | idle (s : State)
  /-- one micro-step of the bulk command in progress -/
  | micro (s : State)
  /-- a command word is accepted on a port -/
  | command (port : Port) (word : Word) (s : State)
  /-- pin RESET -/
  | reset (s : State)
deriving DecidableEq, Repr

/-- The next input is taken: a command word or the reset pin. -/
def State.takeInput (i : Input) (rest : List Input) (s : State) : Move :=
  match i with
  | .command p w => .command p w { s with env := { s.env with program := rest } }
  | .hardwareReset => .reset { s with env := { s.env with program := rest } }

/-- The input may go before the bulk command in progress has ended: all but a foreground command, for FGCMD accepts
its next command only when its previous one has completed (R82, R100, R370). -/
def Input.mayPreempt : Input → Bool
  | .command .fg _ => false
  | .command .irq _ => true
  | .hardwareReset => true

/-- While a bulk command is in progress the environment says whether the next input goes first (R82, U10, log 6). -/
def State.interleave (i : Input) (rest : List Input) (s : State) : Move :=
  if i.mayPreempt = false then .micro s
  else
    match s.env.preempt with
    | [] => .micro s
    | true :: more => { s with env := { s.env with preempt := more } }.takeInput i rest
    | false :: more => .micro { s with env := { s.env with preempt := more } }

/-- Who moves next (R82, R85). -/
def State.nextMove (s : State) : Move :=
  match s.bulk, s.env.program with
  | none, [] => .idle s
  | none, i :: rest => s.takeInput i rest
  | some _, [] => .micro s
  | some _, i :: rest => s.interleave i rest

/-- The port a command is accepted on becomes the port it answers on (R21, R100). -/
def State.onPort (p : Port) (s : State) : State := { s with port := p }

/-- An illegal word: ERR of its port becomes 7 and nothing else of the block changes (R105, R337). -/
def State.illegal (p : Port) (s : State) : State := (s.onPort p).raise .illegalCommand

/-- The port on which a word's command may run: FGCMD if it may run there, else IRQCMD if it may run there, else
FGCMD (R351, log 15). -/
def fetchPort (w : Word) : Port :=
  match decode w with
  | .ok i => if permitted i .fg then .fg else if permitted i .irq then .irq else .fg
  | .error _ => .fg

/-- Present a word as the very next input: it is put before the others, and no bulk command is left in progress that
would go first (log 15). -/
def State.present (w : Word) (s : State) : State :=
  { s with
    bulk := none
    env := { s.env with program := .command (fetchPort w) w :: s.env.program } }

end Sys2Proof.Machine
end

