-- ==== Sys2Proof/Machine/Step.lean ====
section
/-! DEFINITION. One step of the machine (`spec/00_scope.md` R13): one command, one micro-step of a bulk command, one
hardware reset, or nothing when nothing is presented. -/

namespace Sys2Proof.Machine

/-- One step. -/
def step (s : State) : Host.Outcome State Fault Refusal :=
  match s.nextMove with
  | .idle t => .next t
  | .micro t => .next t.microStep
  | .reset t => .next t.hardwareReset
  | .command p w t =>
    match decode w with
    | .ok i => exec i (t.onPort p)
    | .error _ => .next (t.illegal p)

/-- The state with a command word presented as its very next input (R22, R100, log 15). A command word is one 32-bit
word (R108). -/
def State.withFetchWord (s : State) (nbits w : Nat) : State := s.present (BitVec.ofNat 32 (w % 2 ^ nbits))

end Sys2Proof.Machine
end

