-- ==== Sys2Proof/Safety.lean ====
section
/-! DEFINITION. What counts as a safe run of the block: the invariant of `spec/10_state.md` R56, the duty-cycle bound of
`spec/44_scheduler.md` R266, the listen-before-talk order of R267, the assumptions on the codec of `spec/43_framer.md`
R211, and the words the statements share. -/

namespace Sys2Proof.Machine

/-! ## When a command runs its own Operation (`spec/30_encoding.md` R104) -/

/-- The command passes the port check and the fatal check. -/
def Accepted (i : Instr) (s : State) : Prop :=
  permitted i s.port = true ∧ (s.fatal = false ∨ exemptWhenFatal i = true)

/-- A foreground command is being executed and the FATAL latch is clear: the state in which every foreground command
but a ring command on the wrong ring runs its own Operation. -/
def FgReady (s : State) : Prop := s.port = .fg ∧ s.fatal = false

/-- Every byte of every store but those of `p` reads in `t` as it reads in `s`. -/
def SameBytesBut (p : Store → Nat → Prop) (s t : State) : Prop :=
  ∀ st a, ¬ p st a → t.rd st a = s.rd st a

/-- Only ERR of the port the command is on changes, to `code`. -/
def onlyErr (s : State) (code : Byte) : State := s.setRegs s.port ⟨(s.regs s.port).result, code⟩

/-! ## Reset (`spec/70_reset_and_hazards.md` R371) -/

/-- The table of R371, register by register; the event history is empty. -/
structure HasResetValues (t : State) : Prop where
  /-- RESULT and ERR -/
  fg : t.fg = ⟨0, 0⟩
  /-- IRESULT and IERR -/
  irq : t.irq = ⟨0, 0⟩
  /-- CORR -/
  corr : t.corr = 0
  /-- TICKCOND -/
  tickCond : t.tickCond = 0
  /-- DUTY, LBT, NETID, GAPTO, NODEID, PEERNOROOM 0, and MAXPAY = FEC_K -/
  tun : t.tun = ⟨0, 0, 0, BitVec.ofNat 8 t.cfg.fecK, 0, 0, false⟩
  /-- CNT_RXOVF, CNT_TXOVF, CNT_CORR, CNT_UNCORR -/
  cnt : t.cnt = ⟨0, 0, 0, 0⟩
  /-- LISTEN, and SLOT, SLOTTMR, DCTX, DCELAPSED, BACKOFF, LASTRSSI, RETRY, CLEARCNT, TXSEQ 0 -/
  sch : t.sch = ⟨.listen, 0, 0, 0, 0, 0, 0, 0, 0, 0⟩
  /-- CREDIT = CREDIT_MAX, GAPTMR 0, `build_len` 0 -/
  bridge : t.bridge = ⟨BitVec.ofNat 8 t.cfg.creditMax, 0, 0⟩
  /-- RXTYPE, RXSEQ, RXSENDER, RXNETID, RXLEN -/
  rx : t.rx = ⟨0, 0, 0, 0, 0⟩
  /-- `tx_pending` -/
  txPending : t.txPending = none
  /-- `reply_pending` -/
  replyPending : t.replyPending = none
  /-- `hb_req` -/
  hbReq : t.hbReq = false
  /-- the FATAL latch -/
  fatal : t.fatal = false
  /-- SRX is empty with both cursors 0 -/
  srx : t.srx = ⟨0, 0⟩
  /-- STX is empty with both cursors 0 -/
  stx : t.stx = ⟨0, 0⟩
  /-- STATUS, a view of the above -/
  status : statusWord t = 0
  /-- no bulk command is in progress: both ports accept commands at once (R55) -/
  bulk : t.bulk = none
  /-- the event history -/
  history : t.history = []

/-! ## The invariant of the whole machine (R56) -/

/-- The values ERR and IERR can hold: 0..12, and never the two codes reserved for tick conditions (R26, R333). -/
def legalErr (e : Byte) : Bool := e.toNat ≤ 12 && e != 4 && e != 5

/-- Both cursors lie in 0..N-1 (R151). -/
def cursorsOk (cap : Nat) (c : Cursors) : Bool := c.insert < cap && c.remove < cap

/-- What holds of a bulk command between two micro-steps (R82). A tick is in progress only where FEC_K is supported,
and its drain loop stops when the packet is full. -/
def bulkOk (s : State) : Prop :=
  match s.bulk with
  | none => True
  | some (.push inTick rest count) =>
    s.fatal = false ∧ rest ≠ [] ∧ rest.length + count ≤ 255 ∧ (inTick = true → supported s.cfg s.cfg.fecK = true)
  | some (.pop max count) => s.fatal = false ∧ count < max ∧ max ≤ 255
  | some (.drain inTick) =>
    s.fatal = false ∧ s.bridge.buildLen < s.tun.maxpay.toNat ∧ (inTick = true → supported s.cfg s.cfg.fecK = true)

/-- The invariant of every reachable state: R56, with the ranges of R26, R45, R46, R49 and the canonical form of the
memory. -/
structure Invariant (s : State) : Prop where
  /-- the configuration is well formed (`spec/00_scope.md` section 3) -/
  cfg : s.cfg.wf = true
  /-- the memory is in canonical form -/
  mem : Memory.wf s.mem
  /-- `DUTY <= 100` -/
  duty : s.tun.duty.toNat ≤ 100
  /-- `LBT = 0 or 25 <= LBT <= 220` -/
  lbt : s.tun.lbt.toNat = 0 ∨ (25 ≤ s.tun.lbt.toNat ∧ s.tun.lbt.toNat ≤ 220)
  /-- `1 <= MAXPAY <= FEC_K` -/
  maxpay : 1 ≤ s.tun.maxpay.toNat ∧ s.tun.maxpay.toNat ≤ s.cfg.fecK
  /-- `SLOT < NUM_SLOTS` -/
  slot : s.sch.slot.toNat < s.cfg.numSlots
  /-- `SLOTTMR < SLOT_TICKS` -/
  slotTmr : s.sch.slotTmr.toNat < s.cfg.slotTicks
  /-- `DCELAPSED <= DC_WINDOW_TICKS` -/
  dcElapsed : s.sch.dcElapsed.toNat ≤ s.cfg.dcWindowTicks
  /-- `DCTX <= DCELAPSED` -/
  dcTx : s.sch.dcTx.toNat ≤ s.sch.dcElapsed.toNat
  /-- `CREDIT <= CREDIT_MAX` -/
  credit : s.bridge.credit.toNat ≤ s.cfg.creditMax
  /-- the cursors of SRX -/
  srx : cursorsOk s.cfg.rxCap s.srx = true
  /-- the cursors of STX -/
  stx : cursorsOk s.cfg.txCap s.stx = true
  /-- `sch_state = BACKOFF` implies `BACKOFF >= 1` -/
  backoff : s.sch.state = .backoff → 1 ≤ s.sch.backoff.toNat
  /-- the in-progress packet fits one frame (R302) -/
  buildLen : s.bridge.buildLen ≤ s.cfg.fecK
  /-- the pending packet fits one frame (R45, R262, R302) -/
  txPending : ∀ p, s.txPending = some p → p.payload.length ≤ s.cfg.fecK
  /-- a reply has at most 255 bytes (R46) -/
  replyPending : ∀ q, s.replyPending = some q → q.length ≤ 255
  /-- `RXLEN <= FEC_K` (R26) -/
  rxLen : s.rx.len.toNat ≤ s.cfg.fecK
  /-- bits 15:13 of TICKCOND are 0 (R24) -/
  tickCond : s.tickCond.toNat < 2 ^ 13
  /-- ERR (R26, R333) -/
  err : legalErr s.fg.err = true
  /-- IERR (R331, R333) -/
  ierr : legalErr s.irq.err = true
  /-- the bulk command in progress -/
  bulk : bulkOk s

/-! ## Duty cycle (R266) -/

/-- `x[DCTX] * 100 <= x[DUTY] * x[DCELAPSED]` when the cap is enabled. -/
def DutyBound (s : State) : Prop :=
  s.tun.duty ≠ 0 → s.sch.dcTx.toNat * 100 ≤ s.tun.duty.toNat * s.sch.dcElapsed.toNat

/-! ## Listen before talk (R267) -/

/-- The last answer of `Radio.channel_clear` in a history; false when it was never asked. -/
def lastClear (h : List Event) : Bool :=
  h.foldl (fun last e => match e with | .channelClear a => a | _ => last) false

/-- Every `Radio.transmit` call in a history came when the last `Radio.channel_clear` had answered true. -/
def TransmitsOnlyWhenClear (h : List Event) : Prop :=
  ∀ before rest radio ok, h = before ++ Event.transmit radio ok :: rest → lastClear before = true

/-- The listen-before-talk invariant: it also says how TRANSMIT_WINDOW is reached. -/
def ListenBeforeTalk (s : State) : Prop :=
  TransmitsOnlyWhenClear s.history ∧ (s.sch.state = .transmitWindow → lastClear s.history = true)

/-! ## The codec (R211)

Assumptions about an external part, each for the one block that was encoded and the one body that was received; none is
a rule of the machine (U4). -/

/-- FEC_CLEAN: decoding the encoded block gives it back with no correction. -/
def FecClean (c : Config) (block : List Byte) : Prop := fecDecode c (fecEncode c block) = .ok block 0

/-- FEC_CORRECT: a body with at least one and at most FEC_T flipped bits decodes to the block, with their number. -/
def FecCorrect (c : Config) (block body : List Byte) : Prop :=
  1 ≤ bitDistance body (fecEncode c block) → bitDistance body (fecEncode c block) ≤ c.fecT →
  fecDecode c body = .ok block (bitDistance body (fecEncode c block))

/-- FEC_DETECT: a body with more than FEC_T flipped bits is Uncorrectable. -/
def FecDetect (c : Config) (block body : List Byte) : Prop :=
  c.fecT < bitDistance body (fecEncode c block) → fecDecode c body = .uncorrectable

/-! ## Ticks (`spec/44_scheduler.md` R241) -/

/-- The bulk command in progress is SCH.TICK. -/
def Bulk.ofTick : Bulk → Bool
  | .push inTick _ _ => inTick
  | .pop _ _ => false
  | .drain inTick => inTick

/-! ## Ring traffic (`spec/41_ring_buffer.md` R163) -/

/-- One ring operation of a traffic. -/
inductive RingOp where
  | push (b : Byte)
  | pop
deriving DecidableEq, Repr

/-- Run a traffic on a ring: the bytes popped, in order, and the state at the end; none if a push found the ring full
or a pop found it empty. -/
def ringTraffic (r : Ring) : List RingOp → State → Option (List Byte × State)
  | [], s => some ([], s)
  | .push b :: ops, s =>
    match s.tryPush r b with
    | some t => ringTraffic r ops t
    | none => none
  | .pop :: ops, s =>
    match s.tryPop r with
    | some (b, t) =>
      match ringTraffic r ops t with
      | some (out, u) => some (b :: out, u)
      | none => none
    | none => none

/-- The bytes a traffic pushes, in order. -/
def pushedBytes : List RingOp → List Byte
  | [] => []
  | .push b :: ops => b :: pushedBytes ops
  | .pop :: ops => pushedBytes ops

end Sys2Proof.Machine
end

