-- ==== Sys2Proof/Certificates/Slice0/Obligations.lean ====
section
/-! DEFINITION. The statements for the provers, each a claim of the spec about the machine. A docstring names the rule;
`OBLIGATIONS.json` says which statements are the rule's own words and which are derived. -/

open Sys2Proof Sys2Proof.Machine

/-! ## Encoding (`spec/30_encoding.md`) -/

/-- R101, R102, R103, R106: no operand bit of an encoding is dropped. -/
def Obligations.DecodeOfEncode : Prop :=
  ∀ i : Instr, i.wellFormed = true → decode (encode i) = .ok i

/-- R103, R106: a word that decodes is the one encoding of its command, so there are no hidden aliases. -/
def Obligations.EncodeOfDecode : Prop :=
  ∀ (w : Word) (i : Instr), decode w = .ok i → i.wellFormed = true ∧ encode i = w

/-- R104: every word either matches exactly one row of the opcode map, the row of the command it decodes to, or matches
none and is illegal. -/
def Obligations.DecodeAgreesWithOpcodeMap : Prop :=
  ∀ w : Word,
    (∀ i, decode w = .ok i →
      ∃ r, r ∈ opcodeRows ∧ r.accepts w = true ∧ r.op = i.opcode
        ∧ ∀ r', r' ∈ opcodeRows → r'.accepts w = true → r' = r)
    ∧ (∀ e, decode w = .error e → ∀ r, r ∈ opcodeRows → r.accepts w = false)

/-- The example words of R132, R133, R134, R153, R187, R189 (also R109), R220, R262, R303, and illegal words of
95_test_vectors section 2.7. -/
def Obligations.WordsOfTheSpecDecode : Prop :=
  decode 0x130301FF = .ok (.ilvSetbyte 3 1 0xFF)
  ∧ decode 0x01040200 = .ok (.memRd 4 2)
  ∧ decode 0x02010048 = .ok (.memWr 1 0 0x48)
  ∧ decode 0x0809000A = .ok (.cfgWr 9 10)
  ∧ decode 0x11030001 = .ok (.ilvSetbit 3 false 1)
  ∧ decode 0x11038001 = .ok (.ilvSetbit 3 true 1)
  ∧ decode 0x20000200 = .ok (.frmFrame 0 2)
  ∧ decode 0x33000200 = .ok (.schSubmit 0 2)
  ∧ decode 0x40000041 = .ok (.rbPush 0 0x41)
  ∧ decode 0x52000900 = .ok (.brDeliver 9)
  ∧ decode 0x10030802 = .error .mustBeZero
  ∧ decode 0x52010200 = .error .mustBeZero
  ∧ decode 0x03000000 = .error .unassignedOpcode

/-! ## Steps (`spec/00_scope.md` R13, `spec/20_memory.md` R82, `spec/30_encoding.md` R104) -/

/-- When no bulk command is in progress and a command word is next, a step runs the command it decodes to, on its port,
with the word taken from what is presented. -/
def Obligations.StepRunsTheDecodedCommand : Prop :=
  ∀ (s : State) (p : Port) (w : Word) (rest : List Input) (i : Instr),
    s.bulk = none → s.env.program = .command p w :: rest → decode w = .ok i →
    step s = exec i { s with port := p, env := { s.env with program := rest } }

/-- R337: an illegal word puts 7 in ERR of its port, and nothing else of the block changes, also on IRQCMD in the middle
of a bulk command. -/
def Obligations.IllegalWordChangesOnlyErr : Prop :=
  ∀ (s : State) (w : Word) (rest : List Input) (e : DecodeError), decode w = .error e →
    (∀ p, s.bulk = none → s.env.program = .command p w :: rest →
      step s = .next (onlyErr { s with port := p, env := { s.env with program := rest } } 7))
    ∧ (∀ b more, s.bulk = some b → s.env.program = .command .irq w :: rest → s.env.preempt = true :: more →
      step s = .next (onlyErr { s with port := .irq, env := { s.env with program := rest, preempt := more } } 7))

/-- R82, R85: while a bulk command is in progress a foreground command waits for its end, and an interrupt-port command
may go first. The form of the choice is the model's (DESIGN CHOICE, log 6): it is read from `preempt`, each choice is used
up by the step that reads it, and with no choice left a micro-step runs, whatever stands at the head of the inputs. -/
def Obligations.BulkCommandsInterleave : Prop :=
  ∀ (s : State) (b : Bulk), s.bulk = some b →
    (∀ w rest, s.env.program = .command .fg w :: rest → step s = .next (b.step s))
    ∧ (s.env.program = [] → step s = .next (b.step s))
    ∧ (s.env.preempt = [] → step s = .next (b.step s))
    ∧ (∀ w rest more, s.env.program = .command .irq w :: rest → s.env.preempt = false :: more →
        step s = .next (b.step { s with env := { s.env with preempt := more } }))
    ∧ (∀ w rest more i, s.env.program = .command .irq w :: rest → s.env.preempt = true :: more → decode w = .ok i →
        step s = exec i { s with port := .irq, env := { s.env with program := rest, preempt := more } })

/-! ## Port permission and the fatal path (`spec/60_exceptions.md`) -/

/-- R351: the cells of the port table that say no, or that depend on the ring operand. -/
def Obligations.PortPermissionTable : Prop :=
  ∀ i : Instr,
    (permitted i .irq = true ↔
      i = .nop ∨ (∃ r, i = .rbFree r) ∨ (∃ r, i = .rbUsed r) ∨ (∃ r b, i = .rbPush r b ∧ r ≠ 1)
        ∨ (∃ r, i = .rbPop r ∧ r ≠ 0) ∨ (∃ r o, i = .rbPeek r o ∧ r ≠ 0))
    ∧ (permitted i .fg = false ↔
      (∃ b, i = .rbPush 0 b) ∨ i = .rbPop 1 ∨ (∃ o, i = .rbPeek 1 o) ∨ (∃ n, i = .rbPushs 0 n)
        ∨ (∃ n, i = .rbPops 1 n))

/-- R339: a command on a port that may not run it puts 9 in ERR and changes nothing else, whatever its operands and
even while FATAL is set; a ring operand above 1, where the permission depends on it, is a RangeError instead. -/
def Obligations.RoleViolationChangesOnlyErr : Prop :=
  (∀ (i : Instr) (s : State), permitted i s.port = false → exec i s = .next (onlyErr s 9))
  ∧ ∀ (ring : Nat) (s : State), 1 < ring → s.fatal = false →
      (∀ b, exec (.rbPush ring b) s = .next (onlyErr s 8))
      ∧ exec (.rbPop ring) s = .next (onlyErr s 8)
      ∧ (∀ o, exec (.rbPeek ring o) s = .next (onlyErr s 8))
      ∧ (s.port = .fg → ∀ n, exec (.rbPushs ring n) s = .next (onlyErr s 8))
      ∧ (s.port = .fg → ∀ n, exec (.rbPops ring n) s = .next (onlyErr s 8))

/-- R345: while FATAL is set a permitted command is refused with ERR 10 and nothing else changes, except NOP, CFG.RD,
MEM.RD and CTL.RESET, which are not. -/
def Obligations.FatalRefusesAllButFour : Prop :=
  ∀ (i : Instr) (s : State), s.fatal = true → permitted i s.port = true →
    (i ≠ .nop → (∀ r, i ≠ .cfgRd r) → (∀ sp a, i ≠ .memRd sp a) → i ≠ .ctlReset →
      exec i s = .next (onlyErr s 10))
    ∧ (i = .nop ∨ (∃ r, i = .cfgRd r) ∨ (∃ sp a, i = .memRd sp a) ∨ i = .ctlReset →
      ∀ t, exec i s = .next t → (t.regs s.port).err ≠ 10)

/-- R344, R346: the latch is set by a step that reports InvalidBlockSize on FGCMD and by no other, and is cleared by
CTL.RESET on FGCMD and by hardware reset only. -/
def Obligations.FatalLatchSetAndCleared : Prop :=
  ∀ s t : State, step s = .next t →
    (s.fatal = false → t.fatal = true → t.fg.err = 6)
    ∧ (s.fatal = true → t.fatal = false →
        (∃ u, s.nextMove = .reset u) ∨ (∃ w u, s.nextMove = .command .fg w u ∧ decode w = .ok .ctlReset))

/-- R336: an unsupported block size is refused with ERR 6 and sets FATAL, and nothing else changes: no memory, no
register, no oracle call. For the framer and the tick the block size is FEC_K. -/
def Obligations.UnsupportedBlockSizeIsFatal : Prop :=
  ∀ s : State, FgReady s →
    (∀ n, supported s.cfg n = false →
      (∀ idx, exec (.ilvPhys n idx) s = .next { s with fg := { s.fg with err := 6 }, fatal := true })
      ∧ (∀ idx, exec (.ilvGetbit n idx) s = .next { s with fg := { s.fg with err := 6 }, fatal := true })
      ∧ (∀ v idx, exec (.ilvSetbit n v idx) s = .next { s with fg := { s.fg with err := 6 }, fatal := true })
      ∧ (∀ k, exec (.ilvGetbyte n k) s = .next { s with fg := { s.fg with err := 6 }, fatal := true })
      ∧ (∀ k v, exec (.ilvSetbyte n k v) s = .next { s with fg := { s.fg with err := 6 }, fatal := true }))
    ∧ (supported s.cfg s.cfg.fecK = false →
      (∀ ty n, exec (.frmFrame ty n) s = .next { s with fg := { s.fg with err := 6 }, fatal := true })
      ∧ exec .frmDeframe s = .next { s with fg := { s.fg with err := 6 }, fatal := true }
      ∧ exec .schTick s = .next { s with fg := { s.fg with err := 6 }, fatal := true })

/-- R343: when a command ends with an error other than BufferFull, the state is the one before it with ERR changed, and
with FATAL set if the error is InvalidBlockSize. -/
def Obligations.ErrorsArePrecise : Prop :=
  ∀ (i : Instr) (s t : State), s.bulk = none → exec i s = .next t → t.bulk = none →
    (t.regs s.port).err ≠ 0 → (t.regs s.port).err ≠ 1 →
    t = { onlyErr s (t.regs s.port).err with fatal := s.fatal || (t.regs s.port).err == 6 }

/-! ## Access and configuration (`spec/40_access_config.md`) -/

/-- R130: NOP on either port, also while FATAL is set, only sets ERR to 0; its word is 0, and any other word with
opcode 0 is illegal. -/
def Obligations.NopOnlyClearsErr : Prop :=
  (∀ s : State, exec .nop s = .next (onlyErr s 0))
  ∧ encode .nop = 0 ∧ (∀ w : Word, w ≠ 0 → w.toNat < 2 ^ 24 → decode w = .error .mustBeZero)

/-- R132: MEM.RD gives the byte of the space, zero-extended, or RangeError; also while FATAL is set. -/
def Obligations.MemRdGivesTheByte : Prop :=
  ∀ (s : State) (sp addr : Nat), s.port = .fg →
    ((sp = 0 ∧ addr < 255) → exec (.memRd sp addr) s = .next { s with fg := ⟨(s.rd .blk addr).zeroExtend 16, 0⟩ })
    ∧ ((sp = 1 ∧ addr < 255) → exec (.memRd sp addr) s = .next { s with fg := ⟨(s.rd .pay addr).zeroExtend 16, 0⟩ })
    ∧ ((sp = 2 ∧ addr < 6 + s.cfg.fecN) →
        exec (.memRd sp addr) s = .next { s with fg := ⟨(s.rd .txb addr).zeroExtend 16, 0⟩ })
    ∧ ((sp = 3 ∧ addr < 6 + s.cfg.fecN) →
        exec (.memRd sp addr) s = .next { s with fg := ⟨(s.rd .rxb addr).zeroExtend 16, 0⟩ })
    ∧ (∀ k, sp = 4 → k < 86 →
        (addr = 2 * k →
          exec (.memRd sp addr) s = .next { s with fg := ⟨BitVec.ofNat 16 (s.cfg.stride.getD k 0 % 256), 0⟩ })
        ∧ (addr = 2 * k + 1 → s.cfg.stride.getD k 0 ≤ 65535 →
          exec (.memRd sp addr) s = .next { s with fg := ⟨BitVec.ofNat 16 (s.cfg.stride.getD k 0 / 256), 0⟩ }))
    ∧ ((4 < sp ∨ (sp = 0 ∧ 255 ≤ addr) ∨ (sp = 1 ∧ 255 ≤ addr) ∨ (sp = 2 ∧ 6 + s.cfg.fecN ≤ addr)
          ∨ (sp = 3 ∧ 6 + s.cfg.fecN ≤ addr) ∨ (sp = 4 ∧ 172 ≤ addr)) →
        exec (.memRd sp addr) s = .next (onlyErr s 8))

/-- R133: MEM.WR writes one byte of BLK, PAY or RXB and sets ERR to 0; every other access is RangeError. -/
def Obligations.MemWrWritesOneByte : Prop :=
  ∀ (s : State) (sp addr : Nat) (val : Byte), FgReady s →
    (∀ st, (sp = 0 ∧ st = .blk ∧ addr < 255) ∨ (sp = 1 ∧ st = .pay ∧ addr < 255)
          ∨ (sp = 3 ∧ st = .rxb ∧ addr < 6 + s.cfg.fecN) →
      ∃ t, exec (.memWr sp addr val) s = .next t ∧ t.rd st addr = val
        ∧ SameBytesBut (fun st' a => st' = st ∧ a = addr) s t
        ∧ { t with mem := s.mem } = { s with fg := { s.fg with err := 0 } })
    ∧ (sp = 2 ∨ 4 ≤ sp ∨ (sp = 0 ∧ 255 ≤ addr) ∨ (sp = 1 ∧ 255 ≤ addr) ∨ (sp = 3 ∧ 6 + s.cfg.fecN ≤ addr) →
        exec (.memWr sp addr val) s = .next (onlyErr s 8))

/-- R134: CFG.WR stores the clamped value and sets ERR to 0; a reserved or read-only register is RangeError. -/
def Obligations.CfgWrClampsAndStores : Prop :=
  ∀ (s : State) (v : Half), FgReady s →
    exec (.cfgWr 0x08 v) s =
      .next { s with tun := { s.tun with duty := BitVec.ofNat 8 (min v.toNat 100) }, fg := { s.fg with err := 0 } }
    ∧ (v.toNat = 0 →
        exec (.cfgWr 0x09 v) s = .next { s with tun := { s.tun with lbt := 0 }, fg := { s.fg with err := 0 } })
    ∧ (1 ≤ v.toNat → v.toNat < 25 →
        exec (.cfgWr 0x09 v) s = .next { s with tun := { s.tun with lbt := 25 }, fg := { s.fg with err := 0 } })
    ∧ (25 ≤ v.toNat → v.toNat ≤ 220 →
        exec (.cfgWr 0x09 v) s =
          .next { s with tun := { s.tun with lbt := BitVec.ofNat 8 v.toNat }, fg := { s.fg with err := 0 } })
    ∧ (220 < v.toNat →
        exec (.cfgWr 0x09 v) s = .next { s with tun := { s.tun with lbt := 220 }, fg := { s.fg with err := 0 } })
    ∧ exec (.cfgWr 0x0A v) s = .next { s with tun := { s.tun with netid := v }, fg := { s.fg with err := 0 } }
    ∧ exec (.cfgWr 0x0B v) s =
        .next
          { s with
            tun := { s.tun with maxpay := BitVec.ofNat 8 (max 1 (min v.toNat s.cfg.fecK)) }
            fg := { s.fg with err := 0 } }
    ∧ exec (.cfgWr 0x0C v) s = .next { s with tun := { s.tun with gapto := v }, fg := { s.fg with err := 0 } }
    ∧ exec (.cfgWr 0x0D v) s =
        .next
          { s with tun := { s.tun with nodeid := BitVec.ofNat 8 (v.toNat % 256) }, fg := { s.fg with err := 0 } }
    ∧ (v.toNat % 2 = 1 →
        exec (.cfgWr 0x0E v) s =
          .next { s with tun := { s.tun with peerNoRoom := true }, fg := { s.fg with err := 0 } })
    ∧ (v.toNat % 2 = 0 →
        exec (.cfgWr 0x0E v) s =
          .next
            { s with
              tun := { s.tun with peerNoRoom := false }
              bridge := { s.bridge with credit := BitVec.ofNat 8 s.cfg.creditMax }
              fg := { s.fg with err := 0 } })
    ∧ (∀ r, r < 0x08 ∨ 0x0E < r → exec (.cfgWr r v) s = .next (onlyErr s 8))

/-- R135, with the register numbers of R26: CFG.RD gives the value the register had before the command, also while
FATAL is set; a number outside the map is RangeError. -/
def Obligations.CfgRdReadsTheRegisterMap : Prop :=
  ∀ s : State, s.port = .fg →
    let map : List (Nat × Half) :=
      [(0x00, statusWord s), (0x01, s.fg.err.zeroExtend 16), (0x02, s.fg.result), (0x03, s.corr), (0x04, s.tickCond),
       (0x08, s.tun.duty.zeroExtend 16), (0x09, s.tun.lbt.zeroExtend 16), (0x0A, s.tun.netid),
       (0x0B, s.tun.maxpay.zeroExtend 16), (0x0C, s.tun.gapto), (0x0D, s.tun.nodeid.zeroExtend 16),
       (0x0E, if s.tun.peerNoRoom then 1 else 0), (0x10, s.cnt.rxOvf), (0x11, s.cnt.txOvf), (0x12, s.cnt.corr),
       (0x13, s.cnt.uncorr)]
      ++ [(0x18, s.sch.slot.zeroExtend 16), (0x19, s.sch.slotTmr), (0x1A, s.sch.dcTx), (0x1B, s.sch.dcElapsed),
       (0x1C, s.sch.backoff), (0x1D, s.sch.lastRssi.zeroExtend 16), (0x1E, s.sch.retry.zeroExtend 16),
       (0x1F, s.sch.clearCnt.zeroExtend 16), (0x20, s.sch.txSeq.zeroExtend 16), (0x21, s.bridge.credit.zeroExtend 16),
       (0x22, s.bridge.gapTmr), (0x23, BitVec.ofNat 16 s.bridge.buildLen)]
      ++ [(0x28, s.rx.type.zeroExtend 16), (0x29, s.rx.seq.zeroExtend 16), (0x2A, s.rx.sender.zeroExtend 16),
       (0x2B, s.rx.netid), (0x2C, s.rx.len.zeroExtend 16), (0x30, BitVec.ofNat 16 s.cfg.fecK),
       (0x31, BitVec.ofNat 16 s.cfg.fecN), (0x32, BitVec.ofNat 16 (min s.cfg.fecT 0xFFFF)),
       (0x33, BitVec.ofNat 16 s.cfg.rxCap), (0x34, BitVec.ofNat 16 s.cfg.txCap)]
    (∀ r v, (r, v) ∈ map → exec (.cfgRd r) s = .next { s with fg := ⟨v, 0⟩ })
    ∧ (∀ r, r ∉ map.map Prod.fst → exec (.cfgRd r) s = .next (onlyErr s 8))

/-- R23: each bit of STATUS is the piece of state it is a view of. -/
def Obligations.StatusIsAView : Prop :=
  ∀ s : State,
    (statusWord s).getLsbD 0 = s.fatal
    ∧ (statusWord s).toNat / 2 % 4 =
        (match s.sch.state with | .listen => 0 | .transmitWindow => 1 | .backoff => 2)
    ∧ (statusWord s).getLsbD 3 = s.txPending.isSome
    ∧ (statusWord s).getLsbD 4 = s.replyPending.isSome
    ∧ (statusWord s).getLsbD 5 = s.hbReq
    ∧ (statusWord s).getLsbD 6 = s.tun.peerNoRoom
    ∧ (statusWord s).getLsbD 7 = decide (0 < s.bridge.buildLen)
    ∧ (statusWord s).toNat < 2 ^ 8

/-- R136, R346: CTL.RESET on FGCMD, also while FATAL is set, leaves the reset state of R55 and keeps every byte of
memory and of ring storage. That the inputs still to come stay as they are is the model's form of a run (log 12). -/
def Obligations.CtlResetRestoresTheResetState : Prop :=
  ∀ s : State, s.port = .fg →
    ∃ t, exec .ctlReset s = .next t ∧ HasResetValues t ∧ t.mem = s.mem ∧ t.cfg = s.cfg ∧ t.env = s.env

/-- R370, R371, R373: pin RESET, also in the middle of a bulk command that it interrupts, leaves the same state; no byte
of memory is known after it. That it counts as one more hardware reset is the model's (log 8, log 14). -/
def Obligations.HardwareResetRestoresTheResetState : Prop :=
  ∀ (s : State) (rest : List Input), s.env.program = .hardwareReset :: rest →
    (s.bulk = none →
      ∃ t, step s = .next t ∧ HasResetValues t ∧ t.mem = [] ∧ t.cfg = s.cfg
        ∧ t.env = { s.env with program := rest, epoch := s.env.epoch + 1 })
    ∧ (∀ b more, s.bulk = some b → s.env.preempt = true :: more →
      ∃ t, step s = .next t ∧ HasResetValues t ∧ t.mem = [] ∧ t.cfg = s.cfg
        ∧ t.env = { s.env with program := rest, preempt := more, epoch := s.env.epoch + 1 })

/-! ## Ring buffers (`spec/41_ring_buffer.md`) -/

/-- R151: with both cursors below N, the occupancy is in 0..N-1, empty means 0, full means N-1, and free is
N-1 minus the occupancy. -/
def Obligations.RingOccupancy : Prop :=
  ∀ (s : State) (r : Ring), cursorsOk (s.cap r) (s.cursors r) = true →
    s.ringUsed r < s.cap r
    ∧ (s.ringEmpty r = true ↔ s.ringUsed r = 0)
    ∧ (s.ringFull r = true ↔ s.ringUsed r = s.cap r - 1)
    ∧ s.ringFree r + s.ringUsed r = s.cap r - 1

/-- R163: for any traffic that never exceeds the capacity, the bytes popped, followed by those still queued, are the
bytes that were queued, followed by those pushed, in order; and a ring that is empty takes exactly N-1 pushes. -/
def Obligations.RingRoundTrip : Prop :=
  ∀ (s : State) (r : Ring), cursorsOk (s.cap r) (s.cursors r) = true →
    (∀ ops out t, ringTraffic r ops s = some (out, t) →
      out ++ t.ringContents r = s.ringContents r ++ pushedBytes ops)
    ∧ (s.ringEmpty r = true → ∀ bs : List Byte,
        ((ringTraffic r (bs.map RingOp.push) s).isSome = true ↔ bs.length ≤ s.cap r - 1))

/-- R153, R165: RB.PUSH stores the byte and moves `insert`, or, on a full ring, answers RESULT 0 and ERR 1, counts one
overflow of that ring and leaves the ring as it was; a ring above 1 is RangeError. -/
def Obligations.RbPushStoresOrCounts : Prop :=
  ∀ (s : State) (ring : Nat) (byte : Byte), Accepted (.rbPush ring byte) s →
    (∀ r : Ring, (ring = 0 ∧ r = .srx) ∨ (ring = 1 ∧ r = .stx) →
      (((s.cursors r).insert + 1) % s.cap r ≠ (s.cursors r).remove →
        ∃ t, exec (.rbPush ring byte) s = .next t ∧ t.rd r.storage (s.cursors r).insert = byte
          ∧ SameBytesBut (fun st a => st = r.storage ∧ a = (s.cursors r).insert) s t
          ∧ { t with mem := s.mem } =
              (s.setCursors r ⟨((s.cursors r).insert + 1) % s.cap r, (s.cursors r).remove⟩).setRegs s.port ⟨1, 0⟩)
      ∧ (((s.cursors r).insert + 1) % s.cap r = (s.cursors r).remove →
        exec (.rbPush ring byte) s =
          .next
            ({ s with
                cnt :=
                  match r with
                  | .srx => { s.cnt with rxOvf := satInc s.cnt.rxOvf }
                  | .stx => { s.cnt with txOvf := satInc s.cnt.txOvf } }.setRegs s.port ⟨0, 1⟩)))
    ∧ (1 < ring → exec (.rbPush ring byte) s = .next (onlyErr s 8))

/-- R154, R155: RB.POP gives the byte at `remove` and moves `remove`, or BufferEmpty; RB.PEEK gives the byte `offset`
places after `remove` and changes no cursor, or, at or beyond the occupancy, BufferEmpty. On an error nothing else
changes; a ring above 1 is RangeError. -/
def Obligations.RbPopAndPeek : Prop :=
  ∀ (s : State) (ring : Nat), Accepted (.rbPop ring) s →
    (∀ r : Ring, (ring = 0 ∧ r = .srx) ∨ (ring = 1 ∧ r = .stx) →
      ((s.cursors r).insert ≠ (s.cursors r).remove →
        exec (.rbPop ring) s =
          .next
            ((s.setCursors r ⟨(s.cursors r).insert, ((s.cursors r).remove + 1) % s.cap r⟩).setRegs s.port
              ⟨(s.rd r.storage (s.cursors r).remove).zeroExtend 16, 0⟩))
      ∧ ((s.cursors r).insert = (s.cursors r).remove → exec (.rbPop ring) s = .next (onlyErr s 2))
      ∧ ∀ offset,
          (offset < ((s.cursors r).insert + s.cap r - (s.cursors r).remove) % s.cap r →
            exec (.rbPeek ring offset) s =
              .next
                (s.setRegs s.port
                  ⟨(s.rd r.storage (((s.cursors r).remove + offset) % s.cap r)).zeroExtend 16, 0⟩))
          ∧ (((s.cursors r).insert + s.cap r - (s.cursors r).remove) % s.cap r ≤ offset →
            exec (.rbPeek ring offset) s = .next (onlyErr s 2)))
    ∧ (1 < ring →
        exec (.rbPop ring) s = .next (onlyErr s 8)
        ∧ ∀ offset, exec (.rbPeek ring offset) s = .next (onlyErr s 8))

/-- R157, R158, R304: RB.USED gives the occupancy and RB.FREE gives N-1 minus it, on either port; a ring above 1 is
RangeError; BR.ROOM on FGCMD answers 1 exactly when the free space of STX is at least MAXPAY. Nothing else changes. -/
def Obligations.OccupancyQueries : Prop :=
  ∀ s : State, s.fatal = false →
    (∀ (ring : Nat) (r : Ring), (ring = 0 ∧ r = .srx) ∨ (ring = 1 ∧ r = .stx) →
      exec (.rbUsed ring) s =
        .next
          (s.setRegs s.port
            ⟨BitVec.ofNat 16 (((s.cursors r).insert + s.cap r - (s.cursors r).remove) % s.cap r), 0⟩)
      ∧ exec (.rbFree ring) s =
        .next
          (s.setRegs s.port
            ⟨BitVec.ofNat 16
              (s.cap r - 1 - ((s.cursors r).insert + s.cap r - (s.cursors r).remove) % s.cap r), 0⟩))
    ∧ (∀ ring, 1 < ring →
        exec (.rbUsed ring) s = .next (onlyErr s 8) ∧ exec (.rbFree ring) s = .next (onlyErr s 8))
    ∧ (s.port = .fg →
        let free := s.cfg.txCap - 1 - (s.stx.insert + s.cfg.txCap - s.stx.remove) % s.cfg.txCap
        (s.tun.maxpay.toNat ≤ free → exec .brRoom s = .next { s with fg := ⟨1, 0⟩ })
        ∧ (free < s.tun.maxpay.toNat → exec .brRoom s = .next { s with fg := ⟨0, 0⟩ }))

/-- R159: RB.RESET zeroes both cursors of the ring, keeps its storage and the counters, and sets ERR to 0; a ring above
1 is RangeError. -/
def Obligations.RbResetZeroesBothCursors : Prop :=
  ∀ s : State, FgReady s →
    exec (.rbReset 0) s = .next { s with srx := ⟨0, 0⟩, fg := { s.fg with err := 0 } }
    ∧ exec (.rbReset 1) s = .next { s with stx := ⟨0, 0⟩, fg := { s.fg with err := 0 } }
    ∧ ∀ ring, 1 < ring → exec (.rbReset ring) s = .next (onlyErr s 8)

/-- R160, R303: RB.PUSHS on STX and BR.DELIVER, when no other agent's step falls inside: the longest prefix of
PAY[0..len) that fits is pushed in order, RESULT is how many bytes, and if any were dropped ERR is 1 and one overflow is
counted. The command may take up to `len` micro-steps. -/
def Obligations.PushSlicePushesTheLongestPrefix : Prop :=
  ∀ (s : State) (i : Instr) (len : Nat), (i = .rbPushs 1 len ∨ i = .brDeliver len) → FgReady s → s.bulk = none →
    cursorsOk s.cfg.txCap s.stx = true →
    ∃ t, exec i s = .next t ∧
      let u := State.runBulk len t
      let n := min len (s.ringFree .stx)
      u.bulk = none
      ∧ u.fg = ⟨BitVec.ofNat 16 n, if n = len then 0 else 1⟩
      ∧ u.cnt = (if n = len then s.cnt else { s.cnt with txOvf := satInc s.cnt.txOvf })
      ∧ u.stx = ⟨(s.stx.insert + n) % s.cfg.txCap, s.stx.remove⟩
      ∧ u.ringContents .stx = s.ringContents .stx ++ (s.readBytes .pay len).take n
      ∧ SameBytesBut (fun st a => st = .stx ∧ ∃ j, j < n ∧ a = (s.stx.insert + j) % s.cfg.txCap) s u
      ∧ { u with mem := s.mem, stx := s.stx, cnt := s.cnt, fg := s.fg } = s

/-- R161: RB.POPS on SRX, when no other agent's step falls inside: the oldest bytes, at most `max`, go to PAY in order,
RESULT is how many, and an empty ring is no error. -/
def Obligations.PopIntoTakesTheOldest : Prop :=
  ∀ (s : State) (max : Nat), FgReady s → s.bulk = none → cursorsOk s.cfg.rxCap s.srx = true →
    ∃ t, exec (.rbPops 0 max) s = .next t ∧
      let u := State.runBulk max t
      let n := min max (s.ringUsed .srx)
      u.bulk = none
      ∧ u.fg = ⟨BitVec.ofNat 16 n, 0⟩
      ∧ u.srx = ⟨s.srx.insert, (s.srx.remove + n) % s.cfg.rxCap⟩
      ∧ u.readBytes .pay n = (s.ringContents .srx).take n
      ∧ u.ringContents .srx = (s.ringContents .srx).drop n
      ∧ SameBytesBut (fun st a => st = .pay ∧ a < n) s u
      ∧ { u with mem := s.mem, srx := s.srx, fg := s.fg } = s

/-! ## The interleaver (`spec/42_interleaver.md`) -/

/-- R184: for every supported size the index formula takes each value below 8n exactly once and no other. That a size in
1..255 is supported exactly when its formula takes every value below 8n is R183's criterion, which the spec marks as taken
from general knowledge, not from its source; `PHYS(n, 0) = 0` for every size is the spec's own derivation in R184. -/
def Obligations.SupportedMeansBijective : Prop :=
  ∀ (c : Config) (n : Nat),
    (1 ≤ n → n ≤ 255 → (supported c n = true ↔ ∀ p, p < 8 * n → ∃ i, i < 8 * n ∧ phys c n i = p))
    ∧ (supported c n = true →
        (∀ i, i < 8 * n → phys c n i < 8 * n)
        ∧ ∀ p, p < 8 * n → ∃ i, (i < 8 * n ∧ phys c n i = p) ∧ ∀ j, j < 8 * n ∧ phys c n j = p → j = i)
    ∧ phys c n 0 = 0

/-- R185, R186, R188: ILV.PHYS gives the physical index, ILV.GETBIT the bit of BLK at it, and bit `j` of the byte
ILV.GETBYTE gives is the bit of BLK at `PHYS(n, 8k + j)`; an index outside the block is RangeError. -/
def Obligations.IlvReads : Prop :=
  ∀ (s : State) (n : Nat), FgReady s → supported s.cfg n = true →
    (∀ idx, idx < 8 * n →
      exec (.ilvPhys n idx) s =
        .next { s with fg := ⟨BitVec.ofNat 16 (idx * s.cfg.stride.getD (n / 3) 0 % (8 * n)), 0⟩ }
      ∧ exec (.ilvGetbit n idx) s =
        .next
          { s with
            fg := ⟨BitVec.ofNat 16 ((s.rd .blk (phys s.cfg n idx / 8)).toNat / 2 ^ (phys s.cfg n idx % 8) % 2), 0⟩ })
    ∧ (∀ idx, 8 * n ≤ idx →
        exec (.ilvPhys n idx) s = .next (onlyErr s 8) ∧ exec (.ilvGetbit n idx) s = .next (onlyErr s 8))
    ∧ (∀ k, k < n →
      ∃ val : Byte, exec (.ilvGetbyte n k) s = .next { s with fg := ⟨val.zeroExtend 16, 0⟩ }
        ∧ ∀ j, j < 8 →
            val.getLsbD j =
              (s.rd .blk (phys s.cfg n (8 * k + j) / 8)).getLsbD (phys s.cfg n (8 * k + j) % 8))
    ∧ (∀ k, n ≤ k → exec (.ilvGetbyte n k) s = .next (onlyErr s 8))

/-- R187: ILV.SETBIT sets one bit of one byte of BLK to `v`; the other seven bits of the byte and every other byte stay;
an index at or beyond 8n is RangeError. -/
def Obligations.IlvSetbitChangesOneBit : Prop :=
  ∀ (s : State) (n idx : Nat) (v : Bool), FgReady s → supported s.cfg n = true →
    (idx < 8 * n →
      ∃ t, exec (.ilvSetbit n v idx) s = .next t
        ∧ (∀ j, j < 8 →
            (t.rd .blk (phys s.cfg n idx / 8)).getLsbD j =
              if j = phys s.cfg n idx % 8 then v else (s.rd .blk (phys s.cfg n idx / 8)).getLsbD j)
        ∧ SameBytesBut (fun st a => st = .blk ∧ a = phys s.cfg n idx / 8) s t
        ∧ { t with mem := s.mem } = { s with fg := { s.fg with err := 0 } })
    ∧ (8 * n ≤ idx → exec (.ilvSetbit n v idx) s = .next (onlyErr s 8))

/-- R189: ILV.SETBYTE sets the eight bits of BLK at `PHYS(n, 8k + j)` to the bits of the value; every other bit of BLK
and every other byte stay; an index at or beyond n is RangeError. -/
def Obligations.IlvSetbyteScatters : Prop :=
  ∀ (s : State) (n k : Nat) (val : Byte), FgReady s → supported s.cfg n = true →
    (k < n →
      ∃ t, exec (.ilvSetbyte n k val) s = .next t
        ∧ (∀ j, j < 8 →
            (t.rd .blk (phys s.cfg n (8 * k + j) / 8)).getLsbD (phys s.cfg n (8 * k + j) % 8) = val.getLsbD j)
        ∧ (∀ p, (∀ j, j < 8 → p ≠ phys s.cfg n (8 * k + j)) →
            (t.rd .blk (p / 8)).getLsbD (p % 8) = (s.rd .blk (p / 8)).getLsbD (p % 8))
        ∧ SameBytesBut (fun st a => st = .blk ∧ ∃ j, j < 8 ∧ a = phys s.cfg n (8 * k + j) / 8) s t
        ∧ { t with mem := s.mem } = { s with fg := { s.fg with err := 0 } })
    ∧ (n ≤ k → exec (.ilvSetbyte n k val) s = .next (onlyErr s 8))

/-- R190, R191: for every supported size and every block, bit `PHYS(n, i)` of the interleaved block is logical bit `i`
of the block, logical bit `i` of a de-interleaved block is bit `PHYS(n, i)`, and de-interleaving undoes interleaving. -/
def Obligations.DeinterleaveUndoesInterleave : Prop :=
  ∀ (c : Config) (n : Nat) (block : List Byte), supported c n = true → block.length = n →
    (interleave c n block).length = n ∧ (deinterleave c n block).length = n
    ∧ (∀ i, i < 8 * n →
        ((interleave c n block).getD (phys c n i / 8) 0).getLsbD (phys c n i % 8) =
          (block.getD (i / 8) 0).getLsbD (i % 8)
        ∧ ((deinterleave c n block).getD (i / 8) 0).getLsbD (i % 8) =
            (block.getD (phys c n i / 8) 0).getLsbD (phys c n i % 8))
    ∧ deinterleave c n (interleave c n block) = block

/-! ## The framer (`spec/43_framer.md`) -/

/-- R220, R212, R213: FRM.FRAME leaves in TXB the six header bytes and the encoded interleaved block, in BLK the
interleaved block, and RESULT = FRAME_LEN; PAY, TXSEQ and every other byte and register stay. -/
def Obligations.FrmFrameBuildsTheFrame : Prop :=
  ∀ (s : State) (type : Byte) (len : Nat), FgReady s → supported s.cfg s.cfg.fecK = true →
    ∃ t, exec (.frmFrame type len) s = .next t ∧
      let block := interleave s.cfg s.cfg.fecK
        ((s.readBytes .pay len).take s.cfg.fecK ++ List.replicate (s.cfg.fecK - len) 0)
      t.readBytes .blk s.cfg.fecK = block
      ∧ t.readBytes .txb (6 + s.cfg.fecN) =
          [type, s.sch.txSeq, s.tun.nodeid, BitVec.ofNat 8 (s.tun.netid.toNat % 256),
            BitVec.ofNat 8 (s.tun.netid.toNat / 256), BitVec.ofNat 8 (min len s.cfg.fecK)] ++ fecEncode s.cfg block
      ∧ SameBytesBut
          (fun st a => (st = .blk ∧ a < s.cfg.fecK) ∨ (st = .txb ∧ a < 6 + s.cfg.fecN)) s t
      ∧ { t with mem := s.mem } = { s with fg := ⟨BitVec.ofNat 16 (6 + s.cfg.fecN), 0⟩ }

/-- R221, R216, R217: FRM.DEFRAME of the bytes in RXB: a length above FEC_K is BadLength before any decoding, a decoder
failure is FrameUncorrectable, and neither changes anything else; otherwise the block goes to BLK, the payload to PAY,
the header to the RX registers, the corrected count to CORR, and no counter changes. -/
def Obligations.FrmDeframeDecodesRxb : Prop :=
  ∀ s : State, FgReady s → supported s.cfg s.cfg.fecK = true →
    let len := (s.rd .rxb 5).toNat
    let body := ((s.readBytes .rxb (6 + s.cfg.fecN)).drop 6)
    (s.cfg.fecK < len → exec .frmDeframe s = .next (onlyErr s 11))
    ∧ (len ≤ s.cfg.fecK → fecDecode s.cfg body = .uncorrectable → exec .frmDeframe s = .next (onlyErr s 3))
    ∧ (∀ block corrected, len ≤ s.cfg.fecK → fecDecode s.cfg body = .ok block corrected →
        block.length = s.cfg.fecK →
        ∃ t, exec .frmDeframe s = .next t
          ∧ t.readBytes .blk s.cfg.fecK = block
          ∧ t.readBytes .pay len = (deinterleave s.cfg s.cfg.fecK block).take len
          ∧ SameBytesBut (fun st a => (st = .blk ∧ a < s.cfg.fecK) ∨ (st = .pay ∧ a < len)) s t
          ∧ { t with mem := s.mem } =
              { s with
                rx :=
                  ⟨s.rd .rxb 0, s.rd .rxb 1, s.rd .rxb 2,
                    BitVec.ofNat 16 ((s.rd .rxb 3).toNat + 256 * (s.rd .rxb 4).toNat), s.rd .rxb 5⟩
                corr := BitVec.ofNat 16 (min corrected 0xFFFF)
                fg := ⟨BitVec.ofNat 16 len, 0⟩ })

/-- R219, under the assumptions of R211 on the block that was encoded and the body that was received: a clean channel
gives the payload and its header back with a corrected count of 0; up to FEC_T flipped body bits give them back with
their number; more give Uncorrectable. -/
def Obligations.FramerRoundTrip : Prop :=
  ∀ (c : Config) (type seq sender : Byte) (netid : Half) (payload : List Byte),
    c.wf = true → supported c c.fecK = true → payload.length ≤ c.fecK →
    let sent := frame c type seq sender netid payload
    (FecClean c sent.2 → deframe c sent.1 = .ok ⟨type, seq, sender, netid, payload, 0, sent.2⟩)
    ∧ ∀ body : List Byte, body.length = c.fecN →
        let flips := bitDistance body (fecEncode c sent.2)
        (FecCorrect c sent.2 body → 1 ≤ flips → flips ≤ c.fecT →
          deframe c (sent.1.take 6 ++ body) = .ok ⟨type, seq, sender, netid, payload, flips, sent.2⟩)
        ∧ (FecDetect c sent.2 body → c.fecT < flips → deframe c (sent.1.take 6 ++ body) = .uncorrectable)

/-! ## The scheduler (`spec/44_scheduler.md`) -/

/-- R262: SCH.SUBMIT copies PAY[0..len) into the empty pending slot; a type other than DATA and REMOTE_AT or a length
above MAXPAY is RangeError; an occupied slot is PendingOccupied. -/
def Obligations.SchSubmitFillsThePendingSlot : Prop :=
  ∀ (s : State) (type : Byte) (len : Nat), FgReady s →
    ((type ≠ 0 ∧ type ≠ 2) ∨ s.tun.maxpay.toNat < len → exec (.schSubmit type len) s = .next (onlyErr s 8))
    ∧ ((type = 0 ∨ type = 2) → len ≤ s.tun.maxpay.toNat → s.txPending ≠ none →
        exec (.schSubmit type len) s = .next (onlyErr s 12))
    ∧ ((type = 0 ∨ type = 2) → len ≤ s.tun.maxpay.toNat → s.txPending = none →
        exec (.schSubmit type len) s =
          .next { s with txPending := some ⟨type, s.readBytes .pay len⟩, fg := { s.fg with err := 0 } })

/-- R263, R264, R265: the three request commands set or clear their flag and set ERR to 0; their words. -/
def Obligations.RequestFlagCommands : Prop :=
  ∀ s : State, FgReady s →
    exec .schHbreq s = .next { s with hbReq := true, fg := { s.fg with err := 0 } }
    ∧ exec .schHbclr s = .next { s with hbReq := false, fg := { s.fg with err := 0 } }
    ∧ exec .schRpclr s = .next { s with replyPending := none, fg := { s.fg with err := 0 } }
    ∧ encode .schHbreq = 0x31000000 ∧ encode .schHbclr = 0x32000000 ∧ encode .schRpclr = 0x34000000

/-- R241, R333: a tick that starts always completes, in a bounded number of micro-steps when no other agent's step falls
inside, with ERR 0 and RESULT unchanged, whatever it met. -/
def Obligations.TickAlwaysCompletes : Prop :=
  ∀ s : State, FgReady s → s.cfg.wf = true → supported s.cfg s.cfg.fecK = true →
    ∃ t, exec .schTick s = .next t
      ∧ (State.runBulk 600 t).bulk = none ∧ (State.runBulk 600 t).fg = ⟨s.fg.result, 0⟩

/-- R241, R300, R301, R302, R243: the sub-steps of a tick in their order. A tick that finds SRX empty and no received
frame is one step: TICKCOND is cleared, the gap timer runs if a packet is being built, the packet is handed over if it is
full or its gap is over and the pending slot is empty, the radio is asked once, and then come the duty window, the slot
rotation and one state action, the one `sch_state` has when they are done.

Any other tick does the same in several micro-steps; when no other agent's step falls inside: bytes move from SRX to the
build buffer until SRX is empty or the packet is full, the packet is handed over as above, the receive step runs once on
the state so reached, and, after the delivery of a payload if the receive step gives one to deliver, the tick ends. -/
def Obligations.TickInOrder : Prop :=
  (∀ (s : State) (q : List (Option (List Byte))) (n : Nat), FgReady s → supported s.cfg s.cfg.fecK = true →
    s.srx.insert = s.srx.remove → draw s.env.answers.receive Config.drawReceive s.env.draws = (none, q, n) →
    let len := s.bridge.buildLen
    let gap : Half := if len = 0 then s.bridge.gapTmr else BitVec.ofNat 16 (min (s.bridge.gapTmr.toNat + 1) 0xFFFF)
    let ready := 0 < len ∧ (s.tun.maxpay.toNat ≤ len ∨ s.tun.gapto.toNat ≤ gap.toNat) ∧ s.txPending = none
    let t :=
      { s with
        tickCond := if ready then 0x1000 else 0
        txPending := if ready then some ⟨0, s.readBytes .build len⟩ else s.txPending
        bridge := if ready then ⟨s.bridge.credit, 0, 0⟩ else ⟨s.bridge.credit, gap, len⟩
        env := { s.env with answers := { s.env.answers with receive := q }, draws := n }
        history := s.history ++ [Event.receive none] }
    let u := t.dutyWindow.slotRotate
    let v :=
      match u.sch.state with
      | .listen => u.listen
      | .transmitWindow => u.transmitWindow
      | .backoff => u.backoffTick
    exec .schTick s = .next { v with fg := { v.fg with err := 0 }, bulk := none })
  ∧ ∀ s : State, FgReady s → s.bulk = none → supported s.cfg s.cfg.fecK = true → cursorsOk s.cfg.rxCap s.srx = true →
    ∃ t, exec .schTick s = .next t ∧
      let started : Half :=
        if s.bridge.buildLen = 0 then s.bridge.gapTmr else BitVec.ofNat 16 (min (s.bridge.gapTmr.toNat + 1) 0xFFFF)
      let n := min (s.tun.maxpay.toNat - s.bridge.buildLen) (s.ringUsed .srx)
      let len := s.bridge.buildLen + n
      let gap := if n = 0 then started else 0
      let packet := s.readBytes .build s.bridge.buildLen ++ (s.ringContents .srx).take n
      let ready := 0 < len ∧ (s.tun.maxpay.toNat ≤ len ∨ s.tun.gapto.toNat ≤ gap.toNat) ∧ s.txPending = none
      ∃ w : State,
        w.readBytes .build len = packet
        ∧ SameBytesBut (fun st a => st = .build ∧ s.bridge.buildLen ≤ a ∧ a < len) s w
        ∧ { w with mem := s.mem } =
            { s with
              tickCond := if ready then 0x1000 else 0
              srx := ⟨s.srx.insert, (s.srx.remove + n) % s.cfg.rxCap⟩
              txPending := if ready then some ⟨0, packet⟩ else s.txPending
              bridge := if ready then ⟨s.bridge.credit, 0, 0⟩ else ⟨s.bridge.credit, gap, len⟩ }
        ∧ State.runBulk 600 t =
            match w.receiveStep with
            | (none, v) => { v.timeAndState with fg := { v.timeAndState.fg with err := 0 }, bulk := none }
            | (some payload, v) => State.runBulk payload.length (v.pushStep true payload 0)

/-- R241, R269: what one step of a tick may change: the bytes R269 names, one byte of STX storage and one of the build
buffer, the remove cursor of SRX, the insert cursor of STX, and the scheduler, bridge, received-header, condition and
counter registers; not RESULT, the configuration registers, CNT_RXOVF, the FATAL latch or the interrupt port's pair. Its
oracle calls come in the order of R241, at most one of each. -/
def Obligations.TickStepFrame : Prop :=
  ∀ s t : State,
    (FgReady s ∧ supported s.cfg s.cfg.fecK = true ∧ exec .schTick s = .next t)
      ∨ (∃ b, s.bulk = some b ∧ b.ofTick = true ∧ t = s.microStep) →
    SameBytesBut
        (fun st a =>
          ((st = .blk ∨ st = .pay) ∧ a < s.cfg.fecK) ∨ ((st = .txb ∨ st = .rxb) ∧ a < 6 + s.cfg.fecN)
            ∨ (st = .stx ∧ a = s.stx.insert) ∨ (st = .build ∧ a = s.bridge.buildLen)) s t
    ∧ { s with
        fg := ⟨s.fg.result, t.fg.err⟩
        corr := t.corr
        tickCond := t.tickCond
        cnt := ⟨s.cnt.rxOvf, t.cnt.txOvf, t.cnt.corr, t.cnt.uncorr⟩
        sch := t.sch
        bridge := t.bridge
        rx := t.rx
        txPending := t.txPending
        replyPending := t.replyPending
        hbReq := t.hbReq
        srx := ⟨s.srx.insert, t.srx.remove⟩
        stx := ⟨t.stx.insert, s.stx.remove⟩
        mem := t.mem
        bulk := t.bulk
        env := { s.env with answers := t.env.answers, draws := t.env.draws }
        history := t.history } = t
    ∧ ∃ received dispatched moved acted : List Event,
        t.history = s.history ++ received ++ dispatched ++ moved ++ acted
        ∧ (received = [] ∨ ∃ a, received = [.receive a])
        ∧ (dispatched = [] ∨ ∃ p a, dispatched = [.dispatch p a])
        ∧ (moved = [] ∨ ∃ slot, moved = [.setChannel slot])
        ∧ (acted = [] ∨ (∃ clear rssi, acted = [.channelClear clear, .readRssi rssi])
            ∨ ∃ radio ok, acted = [.transmit radio ok])

/-- R243: what is done with the answer of the radio, whether it was in store or is a free value, before deframing:
nothing when there is no frame, a frame of the wrong length is dropped, a frame of another network is left in RXB and
dropped, a frame of this node's network is left in RXB and goes on to R244. -/
def Obligations.ReceiveFiltersFrames : Prop :=
  ∀ (s : State) (answer : Option (List Byte)) (q : List (Option (List Byte))) (n : Nat),
    draw s.env.answers.receive Config.drawReceive s.env.draws = (answer, q, n) →
    let env : Env := { s.env with answers := { s.env.answers with receive := q }, draws := n }
    (answer = none →
      s.receiveStep = (none, { s with env := env, history := s.history ++ [Event.receive none] }))
    ∧ ∀ radio : List Byte, answer = some radio →
    let t :=
      { s with
        tickCond := s.tickCond ||| 0x0001
        env := env
        history := s.history ++ [Event.receive (some radio)] }
    (radio.length ≠ 6 + s.cfg.fecN →
      s.receiveStep = (none, { t with tickCond := t.tickCond ||| 0x0002 }))
    ∧ (radio.length = 6 + s.cfg.fecN → (radio.getD 3 0).toNat + 256 * (radio.getD 4 0).toNat ≠ s.tun.netid.toNat →
      s.receiveStep =
        (none, { t.writeBytes .rxb 0 radio with tickCond := t.tickCond ||| 0x0002 }))
    ∧ (radio.length = 6 + s.cfg.fecN → (radio.getD 3 0).toNat + 256 * (radio.getD 4 0).toNat = s.tun.netid.toNat →
      s.receiveStep = (t.writeBytes .rxb 0 radio).receiveFrame radio)

/-- R244, R246: what is done with a frame of this network: BadLength is dropped uncounted, Uncorrectable is counted, a
deframed packet is stored, counted once if any bit was corrected, and delivered, dispatched or dropped by its type. -/
def Obligations.ReceivedPacketsByType : Prop :=
  ∀ (s : State) (radio : List Byte),
    (deframe s.cfg radio = .badLength →
      s.receiveFrame radio = (none, { s with tickCond := s.tickCond ||| 0x0002 }))
    ∧ (deframe s.cfg radio = .uncorrectable →
      s.receiveFrame radio =
        (none,
          { s with
            cnt := { s.cnt with uncorr := satInc s.cnt.uncorr }
            tickCond := s.tickCond ||| 0x0004 }))
    ∧ (∀ d, deframe s.cfg radio = .ok d →
      let t :=
        { (s.writeBytes .blk 0 d.block).writeBytes .pay 0 d.payload with
          rx := ⟨d.type, d.seq, d.sender, d.netid, BitVec.ofNat 8 d.payload.length⟩
          corr := BitVec.ofNat 16 (min d.corrected 0xFFFF)
          cnt := if 0 < d.corrected then { s.cnt with corr := satInc s.cnt.corr } else s.cnt }
      (d.type = 0 ∨ d.type = 3 → s.receiveFrame radio = (some d.payload, t))
      ∧ (d.type = 1 ∨ 4 ≤ d.type.toNat →
          s.receiveFrame radio = (none, { t with tickCond := t.tickCond ||| 0x0002 }))
      ∧ (d.type = 2 → ∀ a q n, draw s.env.answers.dispatch Config.drawDispatch s.env.draws = (a, q, n) →
          s.receiveFrame radio =
            (none,
              { t with
                env := { s.env with answers := { s.env.answers with dispatch := q }, draws := n }
                history := s.history ++ [Event.dispatch d.payload a]
                tickCond := t.tickCond ||| 0x0020
                replyPending := match a with | some r => some (r.take 255) | none => s.replyPending })))

/-- R245: the delivery of a payload in a tick, when no other agent's step falls inside: the longest prefix that fits
goes to STX in order, TICKCOND gets RX_DELIVERED, and, when bytes were dropped, RX_OVERFLOW and one count of CNT_TXOVF;
then the tick goes on with the time accounting and the state action, and completes with ERR 0. -/
def Obligations.DeliveryPushesAndGoesOn : Prop :=
  ∀ (s : State) (payload : List Byte), cursorsOk s.cfg.txCap s.stx = true →
    let n := min payload.length (s.ringFree .stx)
    let u := State.runBulk payload.length (s.pushStep true payload 0)
    ∃ w : State,
      w.stx = ⟨(s.stx.insert + n) % s.cfg.txCap, s.stx.remove⟩
      ∧ w.ringContents .stx = s.ringContents .stx ++ payload.take n
      ∧ w.tickCond = s.tickCond ||| (if n = payload.length then 0x0008 else 0x0018)
      ∧ w.cnt = (if n = payload.length then s.cnt else { s.cnt with txOvf := satInc s.cnt.txOvf })
      ∧ SameBytesBut (fun st a => st = .stx ∧ ∃ j, j < n ∧ a = (s.stx.insert + j) % s.cfg.txCap) s w
      ∧ { w with mem := s.mem, stx := s.stx, tickCond := s.tickCond, cnt := s.cnt, bulk := s.bulk } = s
      ∧ u = { w.timeAndState with fg := { w.timeAndState.fg with err := 0 }, bulk := none }

/-- R247, R248: the duty window restarts when it is over; the slot timer restarts at SLOT_TICKS, and then the slot moves
on round robin, with one `Radio.set_channel` call if it changed. -/
def Obligations.TimeAccounting : Prop :=
  ∀ s : State, s.cfg.wf = true → s.sch.slot.toNat < s.cfg.numSlots →
    (s.sch.dcElapsed.toNat + 1 ≤ s.cfg.dcWindowTicks →
      s.dutyWindow = { s with sch := { s.sch with dcElapsed := s.sch.dcElapsed + 1 } })
    ∧ (s.cfg.dcWindowTicks < s.sch.dcElapsed.toNat + 1 →
      s.dutyWindow = { s with sch := { s.sch with dcElapsed := 1, dcTx := 0 } })
    ∧ (s.sch.slotTmr.toNat + 1 < s.cfg.slotTicks →
      s.slotRotate = { s with sch := { s.sch with slotTmr := s.sch.slotTmr + 1 } })
    ∧ (s.cfg.slotTicks ≤ s.sch.slotTmr.toNat + 1 → s.cfg.numSlots = 1 →
      s.slotRotate = { s with sch := { s.sch with slotTmr := 0 } })
    ∧ (∀ new : Byte, s.cfg.slotTicks ≤ s.sch.slotTmr.toNat + 1 → s.cfg.numSlots ≠ 1 →
      new.toNat = (s.sch.slot.toNat + 1) % s.cfg.numSlots →
      s.slotRotate =
        { s with
          sch := { s.sch with slotTmr := 0, slot := new }
          history := s.history ++ [Event.setChannel new]
          tickCond := s.tickCond ||| 0x0800 })

/-- R251, R252, R258: a LISTEN tick asks both oracles, keeps the RSSI, and goes to BACKOFF when either declares the
channel busy, or counts a clear tick and goes to TRANSMIT_WINDOW at MIN_CLEAR_TICKS. The backoff interval is BackoffFn
of the network id, the slot and the new retry count. -/
def Obligations.ListenTick : Prop :=
  ∀ (s : State) (clear : Bool) (cq : List Bool) (rssi : Byte) (rq : List Byte) (n m : Nat),
    draw s.env.answers.channelClear Config.drawChannelClear s.env.draws = (clear, cq, n) →
    draw s.env.answers.rssi Config.drawRssi n = (rssi, rq, m) →
    let t :=
      { s with
        env := { s.env with answers := { s.env.answers with channelClear := cq, rssi := rq }, draws := m }
        history := s.history ++ [Event.channelClear clear, Event.readRssi rssi] }
    let clears := min (s.sch.clearCnt.toNat + 1) 255
    let retries := min (s.sch.retry.toNat + 1) 255
    (clear = false ∨ (s.tun.lbt ≠ 0 ∧ s.tun.lbt.toNat ≤ rssi.toNat) →
      s.listen =
        { t with
          tickCond := s.tickCond ||| 0x0040
          sch :=
            { s.sch with
              lastRssi := rssi
              clearCnt := 0
              retry := BitVec.ofNat 8 retries
              backoff := BitVec.ofNat 16 (backoffFn s.cfg s.tun.netid.toNat s.sch.slot.toNat retries)
              state := .backoff } })
    ∧ (clear = true → (s.tun.lbt = 0 ∨ rssi.toNat < s.tun.lbt.toNat) →
      s.listen =
        { t with
          sch :=
            { s.sch with
              lastRssi := rssi
              clearCnt := BitVec.ofNat 8 clears
              state := if s.cfg.minClearTicks ≤ clears then .transmitWindow else s.sch.state } })

/-- R253, R254, R306: the reply goes first, then the heartbeat, then the pending packet; a DATA packet is held back, at
the price of one credit, while the peer has no room and a credit is left, and is sent when no credit is left. -/
def Obligations.CandidatePriorityAndCredit : Prop :=
  ∀ s : State,
    (∀ q, s.replyPending = some q → s.chooseCandidate = (some ⟨3, q, .reply⟩, s))
    ∧ (s.replyPending = none → s.hbReq = true → s.chooseCandidate = (some ⟨1, heartbeatPayload s, .heartbeat⟩, s))
    ∧ (s.replyPending = none → s.hbReq = false → s.txPending = none → s.chooseCandidate = (none, s))
    ∧ (∀ p, s.replyPending = none → s.hbReq = false → s.txPending = some p →
        ((s.tun.peerNoRoom = true ∧ p.type = 0 ∧ s.bridge.credit ≠ 0) →
          s.chooseCandidate =
            (none,
              { s with
                bridge := { s.bridge with credit := s.bridge.credit - 1 }
                tickCond := s.tickCond ||| 0x0400 }))
        ∧ ((s.tun.peerNoRoom = false ∨ p.type ≠ 0 ∨ s.bridge.credit = 0) →
          s.chooseCandidate = (some ⟨p.type, p.payload, .tx⟩, s)))

/-- R253, R255: a TRANSMIT_WINDOW tick without a candidate returns to LISTEN; with one and without budget it enters
BACKOFF and keeps the pending item; otherwise the transmitter is keyed. -/
def Obligations.TransmitWindowBudget : Prop :=
  ∀ s : State,
    let t := { s with sch := { s.sch with clearCnt := 0 } }
    (∀ u, t.chooseCandidate = (none, u) → s.transmitWindow = { u with sch := { u.sch with state := .listen } })
    ∧ (∀ k u, t.chooseCandidate = (some k, u) →
        (u.tun.duty ≠ 0 → u.tun.duty.toNat * u.sch.dcElapsed.toNat < (u.sch.dcTx.toNat + 1) * 100 →
          s.transmitWindow = { u with tickCond := u.tickCond ||| 0x0080 }.enterBackoff)
        ∧ ((u.tun.duty = 0 ∨ (u.sch.dcTx.toNat + 1) * 100 ≤ u.tun.duty.toNat * u.sch.dcElapsed.toNat) →
          s.transmitWindow = u.keyTransmitter k))

/-- R256, R257: keying the transmitter puts the frame in TXB and the interleaved block in BLK and asks the radio once. If
it answers true the window is charged one tick, TXSEQ advances modulo 256, RETRY is cleared and the item's slot is
emptied; if it answers false none of that happens. The next state is LISTEN. -/
def Obligations.KeyedTransmission : Prop :=
  ∀ (s : State) (k : Candidate) (ok : Bool) (q : List Bool) (n : Nat),
    draw s.env.answers.transmit Config.drawTransmit s.env.draws = (ok, q, n) →
    let sent := frame s.cfg k.type s.sch.txSeq s.tun.nodeid s.tun.netid k.payload
    let t :=
      { (s.writeBytes .blk 0 sent.2).writeBytes .txb 0 sent.1 with
        env := { s.env with answers := { s.env.answers with transmit := q }, draws := n }
        history := s.history ++ [Event.transmit sent.1 ok] }
    (ok = false →
      s.keyTransmitter k =
        { t with tickCond := s.tickCond ||| 0x0200, sch := { s.sch with state := .listen } })
    ∧ (ok = true →
      s.keyTransmitter k =
        { t with
          tickCond := s.tickCond ||| 0x0100
          sch :=
            { s.sch with
              dcTx := s.sch.dcTx + 1
              txSeq := s.sch.txSeq + 1
              retry := 0
              state := .listen }
          replyPending := if k.source = Source.reply then none else s.replyPending
          hbReq := if k.source = Source.heartbeat then false else s.hbReq
          txPending := if k.source = Source.tx then none else s.txPending })

/-- R258, R259: a backoff is entered with an interval in 1..65535, and one entered with interval `b` lasts exactly `b`
BACKOFF ticks, each of which takes one from the interval and makes no oracle call; with nothing left it ends at once.
R8: BackoffFn tells two network ids apart. That this holds of every well-formed configuration is the model's reading
(DEDUCED, log 3): R8 asks for the dependence and R258 admits a BACKOFF_SPAN of 1, with which the reference function is a
constant, so the model counts a configuration with that span as not well formed. -/
def Obligations.BackoffLastsItsInterval : Prop :=
  ∀ s : State, s.cfg.wf = true →
    (s.enterBackoff.sch.state = .backoff ∧ 1 ≤ s.enterBackoff.sch.backoff.toNat)
    ∧ (∃ netid netid' slot retry, netid < 65536 ∧ netid' < 65536 ∧ slot < 256 ∧ retry < 256
        ∧ backoffFn s.cfg netid slot retry ≠ backoffFn s.cfg netid' slot retry)
    ∧ (s.sch.state = .backoff → 1 ≤ s.sch.backoff.toNat →
        (∀ k, k < s.sch.backoff.toNat →
          State.backoffTick^[k] s = { s with sch := { s.sch with backoff := s.sch.backoff - BitVec.ofNat 16 k } })
        ∧ State.backoffTick^[s.sch.backoff.toNat] s = { s with sch := { s.sch with backoff := 0, state := .listen } })
    ∧ (s.sch.backoff = 0 → s.backoffTick = { s with sch := { s.sch with state := .listen } })

/-- R261: `sch_state` changes only by a reset, which forces LISTEN, or by the state action at the end of a tick, which sees
the scheduler's registers as the time accounting left them; and the state action follows the rows of the table, each under
its own condition. A state in TRANSMIT_WINDOW always leaves it. -/
def Obligations.SchedulerTransitions : Prop :=
  (∀ s t : State, step s = .next t →
    t.sch.state = s.sch.state
    ∨ (t.sch.state = .listen
      ∧ ((∃ u, s.nextMove = .reset u) ∨ ∃ w u, s.nextMove = .command .fg w u ∧ decode w = .ok .ctlReset))
    ∨ (((∃ w u, s.nextMove = .command .fg w u ∧ decode w = .ok .schTick)
          ∨ ∃ b u, s.bulk = some b ∧ b.ofTick = true ∧ s.nextMove = .micro u)
      ∧ ∃ w : State,
          w.cfg = s.cfg ∧ w.tun = s.tun ∧ w.sch = s.sch ∧ w.bridge.credit = s.bridge.credit ∧ w.hbReq = s.hbReq
          ∧ w.env.answers.channelClear = s.env.answers.channelClear ∧ w.env.answers.rssi = s.env.answers.rssi
          ∧ w.env.answers.transmit = s.env.answers.transmit
          ∧ t = { w.dutyWindow.slotRotate.stateAction with fg := ⟨s.fg.result, 0⟩, bulk := none }))
  ∧ (∀ v : State, v.cfg.wf = true →
    (v.sch.state = .listen → ∀ (clear : Bool) (cq : List Bool) (rssi : Byte) (rq : List Byte) (n m : Nat),
      draw v.env.answers.channelClear Config.drawChannelClear v.env.draws = (clear, cq, n) →
      draw v.env.answers.rssi Config.drawRssi n = (rssi, rq, m) →
      let busy := clear = false ∨ (v.tun.lbt ≠ 0 ∧ v.tun.lbt.toNat ≤ rssi.toNat)
      (busy → v.stateAction.sch.state = .backoff)
      ∧ (¬ busy → v.cfg.minClearTicks ≤ v.sch.clearCnt.toNat + 1 → v.stateAction.sch.state = .transmitWindow)
      ∧ (¬ busy → v.sch.clearCnt.toNat + 1 < v.cfg.minClearTicks → v.stateAction.sch.state = .listen))
    ∧ (v.sch.state = .transmitWindow →
      let suppressed := ∃ p, v.txPending = some p ∧ v.tun.peerNoRoom = true ∧ p.type = 0 ∧ v.bridge.credit ≠ 0
      let noCandidate := v.replyPending = none ∧ v.hbReq = false ∧ (v.txPending = none ∨ suppressed)
      let noBudget :=
        v.tun.duty ≠ 0 ∧ v.tun.duty.toNat * v.sch.dcElapsed.toNat < (v.sch.dcTx.toNat + 1) * 100
      (noCandidate → v.stateAction.sch.state = .listen)
      ∧ (¬ noCandidate → noBudget → v.stateAction.sch.state = .backoff)
      ∧ (¬ noCandidate → ¬ noBudget → v.stateAction.sch.state = .listen))
    ∧ (v.sch.state = .backoff →
      (1 < v.sch.backoff.toNat → v.stateAction.sch.state = .backoff)
      ∧ (v.sch.backoff.toNat ≤ 1 → v.stateAction.sch.state = .listen)))
  ∧ ∀ s : State, s.sch.state = .transmitWindow → s.timeAndState.sch.state ≠ .transmitWindow

/-! ## The bridge (`spec/45_serial_bridge.md`) -/

/-- R307, R301, R302: BR.DRAIN, when no other agent's step falls inside: bytes move from SRX to the build buffer until
SRX is empty or the packet is full, the gap timer is zeroed if any moved, and the packet is handed over if it is not
empty, is full or its gap is over, and the pending slot is empty; RESULT says whether it was. -/
def Obligations.BrDrainFillsAndHandsOver : Prop :=
  ∀ s : State, FgReady s → s.bulk = none → cursorsOk s.cfg.rxCap s.srx = true →
    ∃ t, exec .brDrain s = .next t ∧
      let u := State.runBulk s.tun.maxpay.toNat t
      let n := min (s.tun.maxpay.toNat - s.bridge.buildLen) (s.ringUsed .srx)
      let len := s.bridge.buildLen + n
      let gap := if n = 0 then s.bridge.gapTmr else 0
      let ready := 0 < len ∧ (s.tun.maxpay.toNat ≤ len ∨ s.tun.gapto.toNat ≤ gap.toNat) ∧ s.txPending = none
      u.bulk = none
      ∧ u.srx = ⟨s.srx.insert, if n = 0 then s.srx.remove else (s.srx.remove + n) % s.cfg.rxCap⟩
      ∧ u.readBytes .build len = s.readBytes .build s.bridge.buildLen ++ (s.ringContents .srx).take n
      ∧ SameBytesBut (fun st a => st = .build ∧ s.bridge.buildLen ≤ a ∧ a < len) s u
      ∧ (ready →
          u.txPending = some ⟨0, s.readBytes .build s.bridge.buildLen ++ (s.ringContents .srx).take n⟩
          ∧ u.bridge = ⟨s.bridge.credit, 0, 0⟩ ∧ u.fg = ⟨1, 0⟩)
      ∧ (¬ ready → u.txPending = s.txPending ∧ u.bridge = ⟨s.bridge.credit, gap, len⟩ ∧ u.fg = ⟨0, 0⟩)
      ∧ { u with mem := s.mem, srx := s.srx, txPending := s.txPending, bridge := s.bridge, fg := s.fg } = s

/-! ## The whole machine -/

/-- R56: every step keeps the invariant: the ranges of every register, the cursors of both rings, the canonical form of
the memory, the legal error codes, and what a bulk command in progress needs. -/
def Obligations.EveryStepKeepsTheInvariant : Prop :=
  ∀ s t : State, Invariant s → step s = .next t → Invariant t

/-- R55, R56, R371: the invariant holds after reset, for the hardware's configuration and for every well-formed one, and
the reset state is the one of R371. That nothing is presented, chosen or in store then is the model's (DESIGN CHOICE,
log 5, log 6, log 15). -/
def Obligations.ResetMeetsTheInvariant : Prop :=
  (Invariant State.reset ∧ HasResetValues State.reset ∧ State.reset.env = Env.empty)
  ∧ ∀ c : Config, c.wf = true →
      Invariant (State.resetWith c) ∧ HasResetValues (State.resetWith c) ∧ (State.resetWith c).env = Env.empty
      ∧ (State.resetWith c).cfg = c

/-- R266: while DUTY is not lowered, every step keeps `DCTX * 100 <= DUTY * DCELAPSED`. A DUTY of 0 disables the cap, so
going from 0 to a percentage counts as lowering it: no bound held of the window so far. -/
def Obligations.DutyCycleBound : Prop :=
  ∀ s t : State, s.cfg.wf = true → DutyBound s → step s = .next t →
    (t.tun.duty = s.tun.duty ∨ (s.tun.duty ≠ 0 ∧ s.tun.duty.toNat ≤ t.tun.duty.toNat)) → DutyBound t

/-- R267: every step keeps the listen-before-talk order: each `Radio.transmit` call comes when the last
`Radio.channel_clear` answered true, and TRANSMIT_WINDOW is reached only that way. -/
def Obligations.ListenBeforeTalkKept : Prop :=
  ∀ s t : State, ListenBeforeTalk s → step s = .next t → ListenBeforeTalk t

/-- R351, R86: a command on IRQCMD changes, of the whole block, only IRESULT and IERR, CNT_RXOVF, the insert cursor and
one storage byte of SRX, and the remove cursor of STX. -/
def Obligations.InterruptPortIsConfined : Prop :=
  ∀ (i : Instr) (s t : State), s.port = .irq → exec i s = .next t →
    { t with
      irq := s.irq
      cnt := { t.cnt with rxOvf := s.cnt.rxOvf }
      srx := { t.srx with insert := s.srx.insert }
      stx := { t.stx with remove := s.stx.remove }
      mem := s.mem } = s
    ∧ SameBytesBut (fun st a => st = .srx ∧ a = s.srx.insert) s t

/-- R86, R152: no foreground command but RB.RESET and CTL.RESET, and no micro-step, moves the insert cursor of SRX or the
remove cursor of STX. -/
def Obligations.OneWriterPerCursor : Prop :=
  (∀ (i : Instr) (s t : State), s.port = .fg → (∀ r, i ≠ .rbReset r) → i ≠ .ctlReset → exec i s = .next t →
    t.srx.insert = s.srx.insert ∧ t.stx.remove = s.stx.remove)
  ∧ ∀ s : State, s.microStep.srx.insert = s.srx.insert ∧ s.microStep.stx.remove = s.stx.remove

/-- R40, R166: `SatInc` adds one below 0xFFFF and leaves 0xFFFF as it is, and no step but CTL.RESET on FGCMD and
hardware reset changes a statistics counter in another way. -/
def Obligations.CountersOnlySatInc : Prop :=
  (∀ c : Half, (c.toNat < 0xFFFF → (satInc c).toNat = c.toNat + 1) ∧ (c.toNat = 0xFFFF → satInc c = c))
  ∧ ∀ s t : State, step s = .next t → (∀ u, s.nextMove ≠ .reset u) →
      (∀ w u, s.nextMove = .command .fg w u → decode w ≠ .ok .ctlReset) →
      (t.cnt.rxOvf = s.cnt.rxOvf ∨ t.cnt.rxOvf = satInc s.cnt.rxOvf)
      ∧ (t.cnt.txOvf = s.cnt.txOvf ∨ t.cnt.txOvf = satInc s.cnt.txOvf)
      ∧ (t.cnt.corr = s.cnt.corr ∨ t.cnt.corr = satInc s.cnt.corr)
      ∧ (t.cnt.uncorr = s.cnt.uncorr ∨ t.cnt.uncorr = satInc s.cnt.uncorr)
end

