-- ==== Sys2Proof/Laws/Bits.lean ====
section
/-! SUPPORT. The bit helpers of `Machine/Ops.lean`, bit by bit (`spec/20_memory.md` R79). -/

namespace Sys2Proof.Machine

/-- `byteBit` is the bit of R11. -/
theorem byteBit_eq_getLsbD (b : Byte) (j : Nat) : byteBit b j = b.getLsbD j := by
  rw [byteBit, BitVec.getLsbD, Nat.testBit_eq_decide_div_mod_eq]
  rfl

/-- A number with its bit `j` replaced, bit by bit. -/
theorem testBit_replace (n j k : Nat) (v : Bool) :
    (n - n / 2 ^ j % 2 * 2 ^ j + v.toNat * 2 ^ j).testBit k = if k = j then v else n.testBit k := by
  have hr : n % 2 ^ j < 2 ^ j := Nat.mod_lt _ (by positivity)
  have split_n : n = 2 ^ j * (2 * (n / 2 ^ j / 2) + n / 2 ^ j % 2) + n % 2 ^ j := by
    rw [Nat.div_add_mod, Nat.div_add_mod]
  have new_n : n - n / 2 ^ j % 2 * 2 ^ j + v.toNat * 2 ^ j = 2 ^ j * (2 * (n / 2 ^ j / 2) + v.toNat) + n % 2 ^ j := by
    have h1 : n / 2 ^ j % 2 * 2 ^ j = 2 ^ j * (n / 2 ^ j % 2) := Nat.mul_comm _ _
    have h2 : v.toNat * 2 ^ j = 2 ^ j * v.toNat := Nat.mul_comm _ _
    rw [Nat.mul_add] at split_n ⊢
    omega
  rw [new_n, Nat.testBit_two_pow_mul_add _ hr]
  conv_rhs => rw [split_n, Nat.testBit_two_pow_mul_add _ hr]
  have hv : v.toNat < 2 := by cases v <;> decide
  rcases Nat.lt_trichotomy k j with h | h | h
  · rw [if_pos h, if_pos h, if_neg (by omega)]
  · subst h
    cases v <;> simp
  · rw [if_neg (by omega), if_neg (by omega), if_neg (by omega)]
    obtain ⟨d, hd⟩ : ∃ d, k - j = d + 1 := ⟨k - j - 1, by omega⟩
    have e1 : (2 * (n / 2 ^ j / 2) + v.toNat) / 2 = n / 2 ^ j / 2 := by omega
    have e2 : (2 * (n / 2 ^ j / 2) + n / 2 ^ j % 2) / 2 = n / 2 ^ j / 2 := by omega
    rw [hd, Nat.testBit_succ, Nat.testBit_succ, e1, e2]

/-- Setting bit `j` of a byte sets that bit and leaves the others. -/
theorem setByteBit_getLsbD (b : Byte) (j : Nat) (v : Bool) {k : Nat} (hk : k < 8) :
    (setByteBit b j v).getLsbD k = if k = j then v else b.getLsbD k := by
  rw [setByteBit, BitVec.getLsbD_ofNat, testBit_replace, BitVec.getLsbD]
  simp [hk]

/-- Bit `j` of the byte put together from `f` is `f j`. -/
theorem byteOfBits_getLsbD (f : Nat → Bool) {j : Nat} (hj : j < 8) : (byteOfBits f).getLsbD j = f j := by
  have key : ∀ (j : Fin 8) (a b c d e g h i : Bool),
      (byteOfBits fun k => [a, b, c, d, e, g, h, i].getD k false).getLsbD j.val =
        [a, b, c, d, e, g, h, i].getD j.val false := by decide
  have hf : byteOfBits f = byteOfBits fun k => [f 0, f 1, f 2, f 3, f 4, f 5, f 6, f 7].getD k false := by
    simp [byteOfBits, List.range_succ]
  rw [hf, key ⟨j, hj⟩]
  interval_cases j <;> rfl

/-- Two bytes with the same eight bits are the same. -/
theorem byte_ext {x y : Byte} (h : ∀ j, j < 8 → x.getLsbD j = y.getLsbD j) : x = y :=
  BitVec.eq_of_getLsbD_eq h

end Sys2Proof.Machine
end

