-- ==== Sys2Proof/Laws/State.lean ====
section
/-! SUPPORT. One lemma per field per named update of State: the fields an update leaves alone, and what it writes. No
later proof unfolds a record update. -/

namespace Sys2Proof.Machine.State

/-! ## setCond -/

@[simp] theorem setCond_cfg (s : State) (bit : Nat) : (s.setCond bit).cfg = s.cfg := rfl
@[simp] theorem setCond_fg (s : State) (bit : Nat) : (s.setCond bit).fg = s.fg := rfl
@[simp] theorem setCond_irq (s : State) (bit : Nat) : (s.setCond bit).irq = s.irq := rfl
@[simp] theorem setCond_corr (s : State) (bit : Nat) : (s.setCond bit).corr = s.corr := rfl
@[simp] theorem setCond_tun (s : State) (bit : Nat) : (s.setCond bit).tun = s.tun := rfl
@[simp] theorem setCond_cnt (s : State) (bit : Nat) : (s.setCond bit).cnt = s.cnt := rfl
@[simp] theorem setCond_sch (s : State) (bit : Nat) : (s.setCond bit).sch = s.sch := rfl
@[simp] theorem setCond_bridge (s : State) (bit : Nat) : (s.setCond bit).bridge = s.bridge := rfl
@[simp] theorem setCond_rx (s : State) (bit : Nat) : (s.setCond bit).rx = s.rx := rfl
@[simp] theorem setCond_txPending (s : State) (bit : Nat) : (s.setCond bit).txPending = s.txPending := rfl
@[simp] theorem setCond_replyPending (s : State) (bit : Nat) : (s.setCond bit).replyPending = s.replyPending := rfl
@[simp] theorem setCond_hbReq (s : State) (bit : Nat) : (s.setCond bit).hbReq = s.hbReq := rfl
@[simp] theorem setCond_fatal (s : State) (bit : Nat) : (s.setCond bit).fatal = s.fatal := rfl
@[simp] theorem setCond_srx (s : State) (bit : Nat) : (s.setCond bit).srx = s.srx := rfl
@[simp] theorem setCond_stx (s : State) (bit : Nat) : (s.setCond bit).stx = s.stx := rfl
@[simp] theorem setCond_mem (s : State) (bit : Nat) : (s.setCond bit).mem = s.mem := rfl
@[simp] theorem setCond_bulk (s : State) (bit : Nat) : (s.setCond bit).bulk = s.bulk := rfl
@[simp] theorem setCond_port (s : State) (bit : Nat) : (s.setCond bit).port = s.port := rfl
@[simp] theorem setCond_env (s : State) (bit : Nat) : (s.setCond bit).env = s.env := rfl
@[simp] theorem setCond_history (s : State) (bit : Nat) : (s.setCond bit).history = s.history := rfl

@[simp] theorem setCond_rd (s : State) (bit : Nat) (st : Store) (a : Nat) : (s.setCond bit).rd st a = s.rd st a := rfl

/-! ## setCondIf -/

@[simp] theorem setCondIf_cfg (s : State) (p : Bool) (bit : Nat) : (s.setCondIf p bit).cfg = s.cfg := by cases p <;> rfl
@[simp] theorem setCondIf_fg (s : State) (p : Bool) (bit : Nat) : (s.setCondIf p bit).fg = s.fg := by cases p <;> rfl
@[simp] theorem setCondIf_irq (s : State) (p : Bool) (bit : Nat) : (s.setCondIf p bit).irq = s.irq := by cases p <;> rfl
@[simp] theorem setCondIf_corr (s : State) (p : Bool) (bit : Nat) : (s.setCondIf p bit).corr = s.corr := by cases p <;> rfl
@[simp] theorem setCondIf_tun (s : State) (p : Bool) (bit : Nat) : (s.setCondIf p bit).tun = s.tun := by cases p <;> rfl
@[simp] theorem setCondIf_cnt (s : State) (p : Bool) (bit : Nat) : (s.setCondIf p bit).cnt = s.cnt := by cases p <;> rfl
@[simp] theorem setCondIf_sch (s : State) (p : Bool) (bit : Nat) : (s.setCondIf p bit).sch = s.sch := by cases p <;> rfl
@[simp] theorem setCondIf_bridge (s : State) (p : Bool) (bit : Nat) : (s.setCondIf p bit).bridge = s.bridge := by cases p <;> rfl
@[simp] theorem setCondIf_rx (s : State) (p : Bool) (bit : Nat) : (s.setCondIf p bit).rx = s.rx := by cases p <;> rfl
@[simp] theorem setCondIf_txPending (s : State) (p : Bool) (bit : Nat) : (s.setCondIf p bit).txPending = s.txPending := by cases p <;> rfl
@[simp] theorem setCondIf_replyPending (s : State) (p : Bool) (bit : Nat) : (s.setCondIf p bit).replyPending = s.replyPending := by cases p <;> rfl
@[simp] theorem setCondIf_hbReq (s : State) (p : Bool) (bit : Nat) : (s.setCondIf p bit).hbReq = s.hbReq := by cases p <;> rfl
@[simp] theorem setCondIf_fatal (s : State) (p : Bool) (bit : Nat) : (s.setCondIf p bit).fatal = s.fatal := by cases p <;> rfl
@[simp] theorem setCondIf_srx (s : State) (p : Bool) (bit : Nat) : (s.setCondIf p bit).srx = s.srx := by cases p <;> rfl
@[simp] theorem setCondIf_stx (s : State) (p : Bool) (bit : Nat) : (s.setCondIf p bit).stx = s.stx := by cases p <;> rfl
@[simp] theorem setCondIf_mem (s : State) (p : Bool) (bit : Nat) : (s.setCondIf p bit).mem = s.mem := by cases p <;> rfl
@[simp] theorem setCondIf_bulk (s : State) (p : Bool) (bit : Nat) : (s.setCondIf p bit).bulk = s.bulk := by cases p <;> rfl
@[simp] theorem setCondIf_port (s : State) (p : Bool) (bit : Nat) : (s.setCondIf p bit).port = s.port := by cases p <;> rfl
@[simp] theorem setCondIf_env (s : State) (p : Bool) (bit : Nat) : (s.setCondIf p bit).env = s.env := by cases p <;> rfl
@[simp] theorem setCondIf_history (s : State) (p : Bool) (bit : Nat) : (s.setCondIf p bit).history = s.history := by cases p <;> rfl

@[simp] theorem setCondIf_rd (s : State) (p : Bool) (bit : Nat) (st : Store) (a : Nat) : (s.setCondIf p bit).rd st a = s.rd st a := by cases p <;> rfl

/-! ## countOverflow -/

@[simp] theorem countOverflow_cfg (s : State) (r : Ring) : (s.countOverflow r).cfg = s.cfg := by cases r <;> rfl
@[simp] theorem countOverflow_fg (s : State) (r : Ring) : (s.countOverflow r).fg = s.fg := by cases r <;> rfl
@[simp] theorem countOverflow_irq (s : State) (r : Ring) : (s.countOverflow r).irq = s.irq := by cases r <;> rfl
@[simp] theorem countOverflow_corr (s : State) (r : Ring) : (s.countOverflow r).corr = s.corr := by cases r <;> rfl
@[simp] theorem countOverflow_tickCond (s : State) (r : Ring) : (s.countOverflow r).tickCond = s.tickCond := by cases r <;> rfl
@[simp] theorem countOverflow_tun (s : State) (r : Ring) : (s.countOverflow r).tun = s.tun := by cases r <;> rfl
@[simp] theorem countOverflow_sch (s : State) (r : Ring) : (s.countOverflow r).sch = s.sch := by cases r <;> rfl
@[simp] theorem countOverflow_bridge (s : State) (r : Ring) : (s.countOverflow r).bridge = s.bridge := by cases r <;> rfl
@[simp] theorem countOverflow_rx (s : State) (r : Ring) : (s.countOverflow r).rx = s.rx := by cases r <;> rfl
@[simp] theorem countOverflow_txPending (s : State) (r : Ring) : (s.countOverflow r).txPending = s.txPending := by cases r <;> rfl
@[simp] theorem countOverflow_replyPending (s : State) (r : Ring) : (s.countOverflow r).replyPending = s.replyPending := by cases r <;> rfl
@[simp] theorem countOverflow_hbReq (s : State) (r : Ring) : (s.countOverflow r).hbReq = s.hbReq := by cases r <;> rfl
@[simp] theorem countOverflow_fatal (s : State) (r : Ring) : (s.countOverflow r).fatal = s.fatal := by cases r <;> rfl
@[simp] theorem countOverflow_srx (s : State) (r : Ring) : (s.countOverflow r).srx = s.srx := by cases r <;> rfl
@[simp] theorem countOverflow_stx (s : State) (r : Ring) : (s.countOverflow r).stx = s.stx := by cases r <;> rfl
@[simp] theorem countOverflow_mem (s : State) (r : Ring) : (s.countOverflow r).mem = s.mem := by cases r <;> rfl
@[simp] theorem countOverflow_bulk (s : State) (r : Ring) : (s.countOverflow r).bulk = s.bulk := by cases r <;> rfl
@[simp] theorem countOverflow_port (s : State) (r : Ring) : (s.countOverflow r).port = s.port := by cases r <;> rfl
@[simp] theorem countOverflow_env (s : State) (r : Ring) : (s.countOverflow r).env = s.env := by cases r <;> rfl
@[simp] theorem countOverflow_history (s : State) (r : Ring) : (s.countOverflow r).history = s.history := by cases r <;> rfl

@[simp] theorem countOverflow_rd (s : State) (r : Ring) (st : Store) (a : Nat) : (s.countOverflow r).rd st a = s.rd st a := by cases r <;> rfl

/-! ## wr -/

@[simp] theorem wr_cfg (s : State) (st : Store) (a : Nat) (v : Byte) : (s.wr st a v).cfg = s.cfg := rfl
@[simp] theorem wr_fg (s : State) (st : Store) (a : Nat) (v : Byte) : (s.wr st a v).fg = s.fg := rfl
@[simp] theorem wr_irq (s : State) (st : Store) (a : Nat) (v : Byte) : (s.wr st a v).irq = s.irq := rfl
@[simp] theorem wr_corr (s : State) (st : Store) (a : Nat) (v : Byte) : (s.wr st a v).corr = s.corr := rfl
@[simp] theorem wr_tickCond (s : State) (st : Store) (a : Nat) (v : Byte) : (s.wr st a v).tickCond = s.tickCond := rfl
@[simp] theorem wr_tun (s : State) (st : Store) (a : Nat) (v : Byte) : (s.wr st a v).tun = s.tun := rfl
@[simp] theorem wr_cnt (s : State) (st : Store) (a : Nat) (v : Byte) : (s.wr st a v).cnt = s.cnt := rfl
@[simp] theorem wr_sch (s : State) (st : Store) (a : Nat) (v : Byte) : (s.wr st a v).sch = s.sch := rfl
@[simp] theorem wr_bridge (s : State) (st : Store) (a : Nat) (v : Byte) : (s.wr st a v).bridge = s.bridge := rfl
@[simp] theorem wr_rx (s : State) (st : Store) (a : Nat) (v : Byte) : (s.wr st a v).rx = s.rx := rfl
@[simp] theorem wr_txPending (s : State) (st : Store) (a : Nat) (v : Byte) : (s.wr st a v).txPending = s.txPending := rfl
@[simp] theorem wr_replyPending (s : State) (st : Store) (a : Nat) (v : Byte) : (s.wr st a v).replyPending = s.replyPending := rfl
@[simp] theorem wr_hbReq (s : State) (st : Store) (a : Nat) (v : Byte) : (s.wr st a v).hbReq = s.hbReq := rfl
@[simp] theorem wr_fatal (s : State) (st : Store) (a : Nat) (v : Byte) : (s.wr st a v).fatal = s.fatal := rfl
@[simp] theorem wr_srx (s : State) (st : Store) (a : Nat) (v : Byte) : (s.wr st a v).srx = s.srx := rfl
@[simp] theorem wr_stx (s : State) (st : Store) (a : Nat) (v : Byte) : (s.wr st a v).stx = s.stx := rfl
@[simp] theorem wr_bulk (s : State) (st : Store) (a : Nat) (v : Byte) : (s.wr st a v).bulk = s.bulk := rfl
@[simp] theorem wr_port (s : State) (st : Store) (a : Nat) (v : Byte) : (s.wr st a v).port = s.port := rfl
@[simp] theorem wr_env (s : State) (st : Store) (a : Nat) (v : Byte) : (s.wr st a v).env = s.env := rfl
@[simp] theorem wr_history (s : State) (st : Store) (a : Nat) (v : Byte) : (s.wr st a v).history = s.history := rfl

/-! ## setRegs -/

@[simp] theorem setRegs_cfg (s : State) (p : Port) (r : PortRegs) : (s.setRegs p r).cfg = s.cfg := by cases p <;> rfl
@[simp] theorem setRegs_corr (s : State) (p : Port) (r : PortRegs) : (s.setRegs p r).corr = s.corr := by cases p <;> rfl
@[simp] theorem setRegs_tickCond (s : State) (p : Port) (r : PortRegs) : (s.setRegs p r).tickCond = s.tickCond := by cases p <;> rfl
@[simp] theorem setRegs_tun (s : State) (p : Port) (r : PortRegs) : (s.setRegs p r).tun = s.tun := by cases p <;> rfl
@[simp] theorem setRegs_cnt (s : State) (p : Port) (r : PortRegs) : (s.setRegs p r).cnt = s.cnt := by cases p <;> rfl
@[simp] theorem setRegs_sch (s : State) (p : Port) (r : PortRegs) : (s.setRegs p r).sch = s.sch := by cases p <;> rfl
@[simp] theorem setRegs_bridge (s : State) (p : Port) (r : PortRegs) : (s.setRegs p r).bridge = s.bridge := by cases p <;> rfl
@[simp] theorem setRegs_rx (s : State) (p : Port) (r : PortRegs) : (s.setRegs p r).rx = s.rx := by cases p <;> rfl
@[simp] theorem setRegs_txPending (s : State) (p : Port) (r : PortRegs) : (s.setRegs p r).txPending = s.txPending := by cases p <;> rfl
@[simp] theorem setRegs_replyPending (s : State) (p : Port) (r : PortRegs) : (s.setRegs p r).replyPending = s.replyPending := by cases p <;> rfl
@[simp] theorem setRegs_hbReq (s : State) (p : Port) (r : PortRegs) : (s.setRegs p r).hbReq = s.hbReq := by cases p <;> rfl
@[simp] theorem setRegs_fatal (s : State) (p : Port) (r : PortRegs) : (s.setRegs p r).fatal = s.fatal := by cases p <;> rfl
@[simp] theorem setRegs_srx (s : State) (p : Port) (r : PortRegs) : (s.setRegs p r).srx = s.srx := by cases p <;> rfl
@[simp] theorem setRegs_stx (s : State) (p : Port) (r : PortRegs) : (s.setRegs p r).stx = s.stx := by cases p <;> rfl
@[simp] theorem setRegs_mem (s : State) (p : Port) (r : PortRegs) : (s.setRegs p r).mem = s.mem := by cases p <;> rfl
@[simp] theorem setRegs_bulk (s : State) (p : Port) (r : PortRegs) : (s.setRegs p r).bulk = s.bulk := by cases p <;> rfl
@[simp] theorem setRegs_port (s : State) (p : Port) (r : PortRegs) : (s.setRegs p r).port = s.port := by cases p <;> rfl
@[simp] theorem setRegs_env (s : State) (p : Port) (r : PortRegs) : (s.setRegs p r).env = s.env := by cases p <;> rfl
@[simp] theorem setRegs_history (s : State) (p : Port) (r : PortRegs) : (s.setRegs p r).history = s.history := by cases p <;> rfl

@[simp] theorem setRegs_rd (s : State) (p : Port) (r : PortRegs) (st : Store) (a : Nat) : (s.setRegs p r).rd st a = s.rd st a := by cases p <;> rfl

/-! ## setErr -/

@[simp] theorem setErr_cfg (s : State) (p : Port) (c : Byte) : (s.setErr p c).cfg = s.cfg := by cases p <;> rfl
@[simp] theorem setErr_corr (s : State) (p : Port) (c : Byte) : (s.setErr p c).corr = s.corr := by cases p <;> rfl
@[simp] theorem setErr_tickCond (s : State) (p : Port) (c : Byte) : (s.setErr p c).tickCond = s.tickCond := by cases p <;> rfl
@[simp] theorem setErr_tun (s : State) (p : Port) (c : Byte) : (s.setErr p c).tun = s.tun := by cases p <;> rfl
@[simp] theorem setErr_cnt (s : State) (p : Port) (c : Byte) : (s.setErr p c).cnt = s.cnt := by cases p <;> rfl
@[simp] theorem setErr_sch (s : State) (p : Port) (c : Byte) : (s.setErr p c).sch = s.sch := by cases p <;> rfl
@[simp] theorem setErr_bridge (s : State) (p : Port) (c : Byte) : (s.setErr p c).bridge = s.bridge := by cases p <;> rfl
@[simp] theorem setErr_rx (s : State) (p : Port) (c : Byte) : (s.setErr p c).rx = s.rx := by cases p <;> rfl
@[simp] theorem setErr_txPending (s : State) (p : Port) (c : Byte) : (s.setErr p c).txPending = s.txPending := by cases p <;> rfl
@[simp] theorem setErr_replyPending (s : State) (p : Port) (c : Byte) : (s.setErr p c).replyPending = s.replyPending := by cases p <;> rfl
@[simp] theorem setErr_hbReq (s : State) (p : Port) (c : Byte) : (s.setErr p c).hbReq = s.hbReq := by cases p <;> rfl
@[simp] theorem setErr_fatal (s : State) (p : Port) (c : Byte) : (s.setErr p c).fatal = s.fatal := by cases p <;> rfl
@[simp] theorem setErr_srx (s : State) (p : Port) (c : Byte) : (s.setErr p c).srx = s.srx := by cases p <;> rfl
@[simp] theorem setErr_stx (s : State) (p : Port) (c : Byte) : (s.setErr p c).stx = s.stx := by cases p <;> rfl
@[simp] theorem setErr_mem (s : State) (p : Port) (c : Byte) : (s.setErr p c).mem = s.mem := by cases p <;> rfl
@[simp] theorem setErr_bulk (s : State) (p : Port) (c : Byte) : (s.setErr p c).bulk = s.bulk := by cases p <;> rfl
@[simp] theorem setErr_port (s : State) (p : Port) (c : Byte) : (s.setErr p c).port = s.port := by cases p <;> rfl
@[simp] theorem setErr_env (s : State) (p : Port) (c : Byte) : (s.setErr p c).env = s.env := by cases p <;> rfl
@[simp] theorem setErr_history (s : State) (p : Port) (c : Byte) : (s.setErr p c).history = s.history := by cases p <;> rfl

@[simp] theorem setErr_rd (s : State) (p : Port) (c : Byte) (st : Store) (a : Nat) : (s.setErr p c).rd st a = s.rd st a := by cases p <;> rfl

/-! ## done -/

@[simp] theorem done_cfg (s : State) : s.done.cfg = s.cfg := setErr_cfg s s.port 0
@[simp] theorem done_corr (s : State) : s.done.corr = s.corr := setErr_corr s s.port 0
@[simp] theorem done_tickCond (s : State) : s.done.tickCond = s.tickCond := setErr_tickCond s s.port 0
@[simp] theorem done_tun (s : State) : s.done.tun = s.tun := setErr_tun s s.port 0
@[simp] theorem done_cnt (s : State) : s.done.cnt = s.cnt := setErr_cnt s s.port 0
@[simp] theorem done_sch (s : State) : s.done.sch = s.sch := setErr_sch s s.port 0
@[simp] theorem done_bridge (s : State) : s.done.bridge = s.bridge := setErr_bridge s s.port 0
@[simp] theorem done_rx (s : State) : s.done.rx = s.rx := setErr_rx s s.port 0
@[simp] theorem done_txPending (s : State) : s.done.txPending = s.txPending := setErr_txPending s s.port 0
@[simp] theorem done_replyPending (s : State) : s.done.replyPending = s.replyPending := setErr_replyPending s s.port 0
@[simp] theorem done_hbReq (s : State) : s.done.hbReq = s.hbReq := setErr_hbReq s s.port 0
@[simp] theorem done_fatal (s : State) : s.done.fatal = s.fatal := setErr_fatal s s.port 0
@[simp] theorem done_srx (s : State) : s.done.srx = s.srx := setErr_srx s s.port 0
@[simp] theorem done_stx (s : State) : s.done.stx = s.stx := setErr_stx s s.port 0
@[simp] theorem done_mem (s : State) : s.done.mem = s.mem := setErr_mem s s.port 0
@[simp] theorem done_bulk (s : State) : s.done.bulk = s.bulk := setErr_bulk s s.port 0
@[simp] theorem done_port (s : State) : s.done.port = s.port := setErr_port s s.port 0
@[simp] theorem done_env (s : State) : s.done.env = s.env := setErr_env s s.port 0
@[simp] theorem done_history (s : State) : s.done.history = s.history := setErr_history s s.port 0

@[simp] theorem done_rd (s : State) (st : Store) (a : Nat) : s.done.rd st a = s.rd st a := setErr_rd s s.port 0 st a

/-! ## answer -/

@[simp] theorem answer_cfg (s : State) (v : Half) : (s.answer v).cfg = s.cfg := setRegs_cfg s s.port _
@[simp] theorem answer_corr (s : State) (v : Half) : (s.answer v).corr = s.corr := setRegs_corr s s.port _
@[simp] theorem answer_tickCond (s : State) (v : Half) : (s.answer v).tickCond = s.tickCond := setRegs_tickCond s s.port _
@[simp] theorem answer_tun (s : State) (v : Half) : (s.answer v).tun = s.tun := setRegs_tun s s.port _
@[simp] theorem answer_cnt (s : State) (v : Half) : (s.answer v).cnt = s.cnt := setRegs_cnt s s.port _
@[simp] theorem answer_sch (s : State) (v : Half) : (s.answer v).sch = s.sch := setRegs_sch s s.port _
@[simp] theorem answer_bridge (s : State) (v : Half) : (s.answer v).bridge = s.bridge := setRegs_bridge s s.port _
@[simp] theorem answer_rx (s : State) (v : Half) : (s.answer v).rx = s.rx := setRegs_rx s s.port _
@[simp] theorem answer_txPending (s : State) (v : Half) : (s.answer v).txPending = s.txPending := setRegs_txPending s s.port _
@[simp] theorem answer_replyPending (s : State) (v : Half) : (s.answer v).replyPending = s.replyPending := setRegs_replyPending s s.port _
@[simp] theorem answer_hbReq (s : State) (v : Half) : (s.answer v).hbReq = s.hbReq := setRegs_hbReq s s.port _
@[simp] theorem answer_fatal (s : State) (v : Half) : (s.answer v).fatal = s.fatal := setRegs_fatal s s.port _
@[simp] theorem answer_srx (s : State) (v : Half) : (s.answer v).srx = s.srx := setRegs_srx s s.port _
@[simp] theorem answer_stx (s : State) (v : Half) : (s.answer v).stx = s.stx := setRegs_stx s s.port _
@[simp] theorem answer_mem (s : State) (v : Half) : (s.answer v).mem = s.mem := setRegs_mem s s.port _
@[simp] theorem answer_bulk (s : State) (v : Half) : (s.answer v).bulk = s.bulk := setRegs_bulk s s.port _
@[simp] theorem answer_port (s : State) (v : Half) : (s.answer v).port = s.port := setRegs_port s s.port _
@[simp] theorem answer_env (s : State) (v : Half) : (s.answer v).env = s.env := setRegs_env s s.port _
@[simp] theorem answer_history (s : State) (v : Half) : (s.answer v).history = s.history := setRegs_history s s.port _

@[simp] theorem answer_rd (s : State) (v : Half) (st : Store) (a : Nat) : (s.answer v).rd st a = s.rd st a := setRegs_rd s s.port _ st a

/-! ## raise -/

@[simp] theorem raise_cfg (s : State) (e : ErrCode) : (s.raise e).cfg = s.cfg := setErr_cfg s s.port _
@[simp] theorem raise_corr (s : State) (e : ErrCode) : (s.raise e).corr = s.corr := setErr_corr s s.port _
@[simp] theorem raise_tickCond (s : State) (e : ErrCode) : (s.raise e).tickCond = s.tickCond := setErr_tickCond s s.port _
@[simp] theorem raise_tun (s : State) (e : ErrCode) : (s.raise e).tun = s.tun := setErr_tun s s.port _
@[simp] theorem raise_cnt (s : State) (e : ErrCode) : (s.raise e).cnt = s.cnt := setErr_cnt s s.port _
@[simp] theorem raise_sch (s : State) (e : ErrCode) : (s.raise e).sch = s.sch := setErr_sch s s.port _
@[simp] theorem raise_bridge (s : State) (e : ErrCode) : (s.raise e).bridge = s.bridge := setErr_bridge s s.port _
@[simp] theorem raise_rx (s : State) (e : ErrCode) : (s.raise e).rx = s.rx := setErr_rx s s.port _
@[simp] theorem raise_txPending (s : State) (e : ErrCode) : (s.raise e).txPending = s.txPending := setErr_txPending s s.port _
@[simp] theorem raise_replyPending (s : State) (e : ErrCode) : (s.raise e).replyPending = s.replyPending := setErr_replyPending s s.port _
@[simp] theorem raise_hbReq (s : State) (e : ErrCode) : (s.raise e).hbReq = s.hbReq := setErr_hbReq s s.port _
@[simp] theorem raise_srx (s : State) (e : ErrCode) : (s.raise e).srx = s.srx := setErr_srx s s.port _
@[simp] theorem raise_stx (s : State) (e : ErrCode) : (s.raise e).stx = s.stx := setErr_stx s s.port _
@[simp] theorem raise_mem (s : State) (e : ErrCode) : (s.raise e).mem = s.mem := setErr_mem s s.port _
@[simp] theorem raise_bulk (s : State) (e : ErrCode) : (s.raise e).bulk = s.bulk := setErr_bulk s s.port _
@[simp] theorem raise_port (s : State) (e : ErrCode) : (s.raise e).port = s.port := setErr_port s s.port _
@[simp] theorem raise_env (s : State) (e : ErrCode) : (s.raise e).env = s.env := setErr_env s s.port _
@[simp] theorem raise_history (s : State) (e : ErrCode) : (s.raise e).history = s.history := setErr_history s s.port _

@[simp] theorem raise_rd (s : State) (e : ErrCode) (st : Store) (a : Nat) : (s.raise e).rd st a = s.rd st a := setErr_rd s s.port _ st a

/-! ## setCursors -/

@[simp] theorem setCursors_cfg (s : State) (r : Ring) (c : Cursors) : (s.setCursors r c).cfg = s.cfg := by cases r <;> rfl
@[simp] theorem setCursors_fg (s : State) (r : Ring) (c : Cursors) : (s.setCursors r c).fg = s.fg := by cases r <;> rfl
@[simp] theorem setCursors_irq (s : State) (r : Ring) (c : Cursors) : (s.setCursors r c).irq = s.irq := by cases r <;> rfl
@[simp] theorem setCursors_corr (s : State) (r : Ring) (c : Cursors) : (s.setCursors r c).corr = s.corr := by cases r <;> rfl
@[simp] theorem setCursors_tickCond (s : State) (r : Ring) (c : Cursors) : (s.setCursors r c).tickCond = s.tickCond := by cases r <;> rfl
@[simp] theorem setCursors_tun (s : State) (r : Ring) (c : Cursors) : (s.setCursors r c).tun = s.tun := by cases r <;> rfl
@[simp] theorem setCursors_cnt (s : State) (r : Ring) (c : Cursors) : (s.setCursors r c).cnt = s.cnt := by cases r <;> rfl
@[simp] theorem setCursors_sch (s : State) (r : Ring) (c : Cursors) : (s.setCursors r c).sch = s.sch := by cases r <;> rfl
@[simp] theorem setCursors_bridge (s : State) (r : Ring) (c : Cursors) : (s.setCursors r c).bridge = s.bridge := by cases r <;> rfl
@[simp] theorem setCursors_rx (s : State) (r : Ring) (c : Cursors) : (s.setCursors r c).rx = s.rx := by cases r <;> rfl
@[simp] theorem setCursors_txPending (s : State) (r : Ring) (c : Cursors) : (s.setCursors r c).txPending = s.txPending := by cases r <;> rfl
@[simp] theorem setCursors_replyPending (s : State) (r : Ring) (c : Cursors) : (s.setCursors r c).replyPending = s.replyPending := by cases r <;> rfl
@[simp] theorem setCursors_hbReq (s : State) (r : Ring) (c : Cursors) : (s.setCursors r c).hbReq = s.hbReq := by cases r <;> rfl
@[simp] theorem setCursors_fatal (s : State) (r : Ring) (c : Cursors) : (s.setCursors r c).fatal = s.fatal := by cases r <;> rfl
@[simp] theorem setCursors_mem (s : State) (r : Ring) (c : Cursors) : (s.setCursors r c).mem = s.mem := by cases r <;> rfl
@[simp] theorem setCursors_bulk (s : State) (r : Ring) (c : Cursors) : (s.setCursors r c).bulk = s.bulk := by cases r <;> rfl
@[simp] theorem setCursors_port (s : State) (r : Ring) (c : Cursors) : (s.setCursors r c).port = s.port := by cases r <;> rfl
@[simp] theorem setCursors_env (s : State) (r : Ring) (c : Cursors) : (s.setCursors r c).env = s.env := by cases r <;> rfl
@[simp] theorem setCursors_history (s : State) (r : Ring) (c : Cursors) : (s.setCursors r c).history = s.history := by cases r <;> rfl

@[simp] theorem setCursors_rd (s : State) (r : Ring) (c : Cursors) (st : Store) (a : Nat) : (s.setCursors r c).rd st a = s.rd st a := by cases r <;> rfl

/-! ## record -/

@[simp] theorem record_cfg (s : State) (e : Event) : (s.record e).cfg = s.cfg := rfl
@[simp] theorem record_fg (s : State) (e : Event) : (s.record e).fg = s.fg := rfl
@[simp] theorem record_irq (s : State) (e : Event) : (s.record e).irq = s.irq := rfl
@[simp] theorem record_corr (s : State) (e : Event) : (s.record e).corr = s.corr := rfl
@[simp] theorem record_tickCond (s : State) (e : Event) : (s.record e).tickCond = s.tickCond := rfl
@[simp] theorem record_tun (s : State) (e : Event) : (s.record e).tun = s.tun := rfl
@[simp] theorem record_cnt (s : State) (e : Event) : (s.record e).cnt = s.cnt := rfl
@[simp] theorem record_sch (s : State) (e : Event) : (s.record e).sch = s.sch := rfl
@[simp] theorem record_bridge (s : State) (e : Event) : (s.record e).bridge = s.bridge := rfl
@[simp] theorem record_rx (s : State) (e : Event) : (s.record e).rx = s.rx := rfl
@[simp] theorem record_txPending (s : State) (e : Event) : (s.record e).txPending = s.txPending := rfl
@[simp] theorem record_replyPending (s : State) (e : Event) : (s.record e).replyPending = s.replyPending := rfl
@[simp] theorem record_hbReq (s : State) (e : Event) : (s.record e).hbReq = s.hbReq := rfl
@[simp] theorem record_fatal (s : State) (e : Event) : (s.record e).fatal = s.fatal := rfl
@[simp] theorem record_srx (s : State) (e : Event) : (s.record e).srx = s.srx := rfl
@[simp] theorem record_stx (s : State) (e : Event) : (s.record e).stx = s.stx := rfl
@[simp] theorem record_mem (s : State) (e : Event) : (s.record e).mem = s.mem := rfl
@[simp] theorem record_bulk (s : State) (e : Event) : (s.record e).bulk = s.bulk := rfl
@[simp] theorem record_port (s : State) (e : Event) : (s.record e).port = s.port := rfl
@[simp] theorem record_env (s : State) (e : Event) : (s.record e).env = s.env := rfl

@[simp] theorem record_rd (s : State) (e : Event) (st : Store) (a : Nat) : (s.record e).rd st a = s.rd st a := rfl

/-! ## setSch -/

@[simp] theorem setSch_cfg (s : State) (st : SchState) : (s.setSch st).cfg = s.cfg := rfl
@[simp] theorem setSch_fg (s : State) (st : SchState) : (s.setSch st).fg = s.fg := rfl
@[simp] theorem setSch_irq (s : State) (st : SchState) : (s.setSch st).irq = s.irq := rfl
@[simp] theorem setSch_corr (s : State) (st : SchState) : (s.setSch st).corr = s.corr := rfl
@[simp] theorem setSch_tickCond (s : State) (st : SchState) : (s.setSch st).tickCond = s.tickCond := rfl
@[simp] theorem setSch_tun (s : State) (st : SchState) : (s.setSch st).tun = s.tun := rfl
@[simp] theorem setSch_cnt (s : State) (st : SchState) : (s.setSch st).cnt = s.cnt := rfl
@[simp] theorem setSch_bridge (s : State) (st : SchState) : (s.setSch st).bridge = s.bridge := rfl
@[simp] theorem setSch_rx (s : State) (st : SchState) : (s.setSch st).rx = s.rx := rfl
@[simp] theorem setSch_txPending (s : State) (st : SchState) : (s.setSch st).txPending = s.txPending := rfl
@[simp] theorem setSch_replyPending (s : State) (st : SchState) : (s.setSch st).replyPending = s.replyPending := rfl
@[simp] theorem setSch_hbReq (s : State) (st : SchState) : (s.setSch st).hbReq = s.hbReq := rfl
@[simp] theorem setSch_fatal (s : State) (st : SchState) : (s.setSch st).fatal = s.fatal := rfl
@[simp] theorem setSch_srx (s : State) (st : SchState) : (s.setSch st).srx = s.srx := rfl
@[simp] theorem setSch_stx (s : State) (st : SchState) : (s.setSch st).stx = s.stx := rfl
@[simp] theorem setSch_mem (s : State) (st : SchState) : (s.setSch st).mem = s.mem := rfl
@[simp] theorem setSch_bulk (s : State) (st : SchState) : (s.setSch st).bulk = s.bulk := rfl
@[simp] theorem setSch_port (s : State) (st : SchState) : (s.setSch st).port = s.port := rfl
@[simp] theorem setSch_env (s : State) (st : SchState) : (s.setSch st).env = s.env := rfl
@[simp] theorem setSch_history (s : State) (st : SchState) : (s.setSch st).history = s.history := rfl

@[simp] theorem setSch_rd (s : State) (sc : SchState) (st : Store) (a : Nat) : (s.setSch sc).rd st a = s.rd st a := rfl

/-! ## suspend -/

@[simp] theorem suspend_cfg (s : State) (b : Bulk) : (s.suspend b).cfg = s.cfg := rfl
@[simp] theorem suspend_fg (s : State) (b : Bulk) : (s.suspend b).fg = s.fg := rfl
@[simp] theorem suspend_irq (s : State) (b : Bulk) : (s.suspend b).irq = s.irq := rfl
@[simp] theorem suspend_corr (s : State) (b : Bulk) : (s.suspend b).corr = s.corr := rfl
@[simp] theorem suspend_tickCond (s : State) (b : Bulk) : (s.suspend b).tickCond = s.tickCond := rfl
@[simp] theorem suspend_tun (s : State) (b : Bulk) : (s.suspend b).tun = s.tun := rfl
@[simp] theorem suspend_cnt (s : State) (b : Bulk) : (s.suspend b).cnt = s.cnt := rfl
@[simp] theorem suspend_sch (s : State) (b : Bulk) : (s.suspend b).sch = s.sch := rfl
@[simp] theorem suspend_bridge (s : State) (b : Bulk) : (s.suspend b).bridge = s.bridge := rfl
@[simp] theorem suspend_rx (s : State) (b : Bulk) : (s.suspend b).rx = s.rx := rfl
@[simp] theorem suspend_txPending (s : State) (b : Bulk) : (s.suspend b).txPending = s.txPending := rfl
@[simp] theorem suspend_replyPending (s : State) (b : Bulk) : (s.suspend b).replyPending = s.replyPending := rfl
@[simp] theorem suspend_hbReq (s : State) (b : Bulk) : (s.suspend b).hbReq = s.hbReq := rfl
@[simp] theorem suspend_fatal (s : State) (b : Bulk) : (s.suspend b).fatal = s.fatal := rfl
@[simp] theorem suspend_srx (s : State) (b : Bulk) : (s.suspend b).srx = s.srx := rfl
@[simp] theorem suspend_stx (s : State) (b : Bulk) : (s.suspend b).stx = s.stx := rfl
@[simp] theorem suspend_mem (s : State) (b : Bulk) : (s.suspend b).mem = s.mem := rfl
@[simp] theorem suspend_port (s : State) (b : Bulk) : (s.suspend b).port = s.port := rfl
@[simp] theorem suspend_env (s : State) (b : Bulk) : (s.suspend b).env = s.env := rfl
@[simp] theorem suspend_history (s : State) (b : Bulk) : (s.suspend b).history = s.history := rfl

@[simp] theorem suspend_rd (s : State) (b : Bulk) (st : Store) (a : Nat) : (s.suspend b).rd st a = s.rd st a := rfl

/-! ## finishBulk -/

@[simp] theorem finishBulk_cfg (s : State) (v : Half) (e : Byte) : (s.finishBulk v e).cfg = s.cfg := rfl
@[simp] theorem finishBulk_irq (s : State) (v : Half) (e : Byte) : (s.finishBulk v e).irq = s.irq := rfl
@[simp] theorem finishBulk_corr (s : State) (v : Half) (e : Byte) : (s.finishBulk v e).corr = s.corr := rfl
@[simp] theorem finishBulk_tickCond (s : State) (v : Half) (e : Byte) : (s.finishBulk v e).tickCond = s.tickCond := rfl
@[simp] theorem finishBulk_tun (s : State) (v : Half) (e : Byte) : (s.finishBulk v e).tun = s.tun := rfl
@[simp] theorem finishBulk_cnt (s : State) (v : Half) (e : Byte) : (s.finishBulk v e).cnt = s.cnt := rfl
@[simp] theorem finishBulk_sch (s : State) (v : Half) (e : Byte) : (s.finishBulk v e).sch = s.sch := rfl
@[simp] theorem finishBulk_bridge (s : State) (v : Half) (e : Byte) : (s.finishBulk v e).bridge = s.bridge := rfl
@[simp] theorem finishBulk_rx (s : State) (v : Half) (e : Byte) : (s.finishBulk v e).rx = s.rx := rfl
@[simp] theorem finishBulk_txPending (s : State) (v : Half) (e : Byte) : (s.finishBulk v e).txPending = s.txPending := rfl
@[simp] theorem finishBulk_replyPending (s : State) (v : Half) (e : Byte) : (s.finishBulk v e).replyPending = s.replyPending := rfl
@[simp] theorem finishBulk_hbReq (s : State) (v : Half) (e : Byte) : (s.finishBulk v e).hbReq = s.hbReq := rfl
@[simp] theorem finishBulk_fatal (s : State) (v : Half) (e : Byte) : (s.finishBulk v e).fatal = s.fatal := rfl
@[simp] theorem finishBulk_srx (s : State) (v : Half) (e : Byte) : (s.finishBulk v e).srx = s.srx := rfl
@[simp] theorem finishBulk_stx (s : State) (v : Half) (e : Byte) : (s.finishBulk v e).stx = s.stx := rfl
@[simp] theorem finishBulk_mem (s : State) (v : Half) (e : Byte) : (s.finishBulk v e).mem = s.mem := rfl
@[simp] theorem finishBulk_port (s : State) (v : Half) (e : Byte) : (s.finishBulk v e).port = s.port := rfl
@[simp] theorem finishBulk_env (s : State) (v : Half) (e : Byte) : (s.finishBulk v e).env = s.env := rfl
@[simp] theorem finishBulk_history (s : State) (v : Half) (e : Byte) : (s.finishBulk v e).history = s.history := rfl

@[simp] theorem finishBulk_rd (s : State) (v : Half) (e : Byte) (st : Store) (a : Nat) : (s.finishBulk v e).rd st a = s.rd st a := rfl

/-! ## onPort -/

@[simp] theorem onPort_cfg (s : State) (p : Port) : (s.onPort p).cfg = s.cfg := rfl
@[simp] theorem onPort_fg (s : State) (p : Port) : (s.onPort p).fg = s.fg := rfl
@[simp] theorem onPort_irq (s : State) (p : Port) : (s.onPort p).irq = s.irq := rfl
@[simp] theorem onPort_corr (s : State) (p : Port) : (s.onPort p).corr = s.corr := rfl
@[simp] theorem onPort_tickCond (s : State) (p : Port) : (s.onPort p).tickCond = s.tickCond := rfl
@[simp] theorem onPort_tun (s : State) (p : Port) : (s.onPort p).tun = s.tun := rfl
@[simp] theorem onPort_cnt (s : State) (p : Port) : (s.onPort p).cnt = s.cnt := rfl
@[simp] theorem onPort_sch (s : State) (p : Port) : (s.onPort p).sch = s.sch := rfl
@[simp] theorem onPort_bridge (s : State) (p : Port) : (s.onPort p).bridge = s.bridge := rfl
@[simp] theorem onPort_rx (s : State) (p : Port) : (s.onPort p).rx = s.rx := rfl
@[simp] theorem onPort_txPending (s : State) (p : Port) : (s.onPort p).txPending = s.txPending := rfl
@[simp] theorem onPort_replyPending (s : State) (p : Port) : (s.onPort p).replyPending = s.replyPending := rfl
@[simp] theorem onPort_hbReq (s : State) (p : Port) : (s.onPort p).hbReq = s.hbReq := rfl
@[simp] theorem onPort_fatal (s : State) (p : Port) : (s.onPort p).fatal = s.fatal := rfl
@[simp] theorem onPort_srx (s : State) (p : Port) : (s.onPort p).srx = s.srx := rfl
@[simp] theorem onPort_stx (s : State) (p : Port) : (s.onPort p).stx = s.stx := rfl
@[simp] theorem onPort_mem (s : State) (p : Port) : (s.onPort p).mem = s.mem := rfl
@[simp] theorem onPort_bulk (s : State) (p : Port) : (s.onPort p).bulk = s.bulk := rfl
@[simp] theorem onPort_env (s : State) (p : Port) : (s.onPort p).env = s.env := rfl
@[simp] theorem onPort_history (s : State) (p : Port) : (s.onPort p).history = s.history := rfl

@[simp] theorem onPort_rd (s : State) (p : Port) (st : Store) (a : Nat) : (s.onPort p).rd st a = s.rd st a := rfl

/-! ## clearSource -/

@[simp] theorem clearSource_cfg (s : State) (src : Source) : (s.clearSource src).cfg = s.cfg := by cases src <;> rfl
@[simp] theorem clearSource_fg (s : State) (src : Source) : (s.clearSource src).fg = s.fg := by cases src <;> rfl
@[simp] theorem clearSource_irq (s : State) (src : Source) : (s.clearSource src).irq = s.irq := by cases src <;> rfl
@[simp] theorem clearSource_corr (s : State) (src : Source) : (s.clearSource src).corr = s.corr := by cases src <;> rfl
@[simp] theorem clearSource_tickCond (s : State) (src : Source) : (s.clearSource src).tickCond = s.tickCond := by cases src <;> rfl
@[simp] theorem clearSource_tun (s : State) (src : Source) : (s.clearSource src).tun = s.tun := by cases src <;> rfl
@[simp] theorem clearSource_cnt (s : State) (src : Source) : (s.clearSource src).cnt = s.cnt := by cases src <;> rfl
@[simp] theorem clearSource_sch (s : State) (src : Source) : (s.clearSource src).sch = s.sch := by cases src <;> rfl
@[simp] theorem clearSource_bridge (s : State) (src : Source) : (s.clearSource src).bridge = s.bridge := by cases src <;> rfl
@[simp] theorem clearSource_rx (s : State) (src : Source) : (s.clearSource src).rx = s.rx := by cases src <;> rfl
@[simp] theorem clearSource_fatal (s : State) (src : Source) : (s.clearSource src).fatal = s.fatal := by cases src <;> rfl
@[simp] theorem clearSource_srx (s : State) (src : Source) : (s.clearSource src).srx = s.srx := by cases src <;> rfl
@[simp] theorem clearSource_stx (s : State) (src : Source) : (s.clearSource src).stx = s.stx := by cases src <;> rfl
@[simp] theorem clearSource_mem (s : State) (src : Source) : (s.clearSource src).mem = s.mem := by cases src <;> rfl
@[simp] theorem clearSource_bulk (s : State) (src : Source) : (s.clearSource src).bulk = s.bulk := by cases src <;> rfl
@[simp] theorem clearSource_port (s : State) (src : Source) : (s.clearSource src).port = s.port := by cases src <;> rfl
@[simp] theorem clearSource_env (s : State) (src : Source) : (s.clearSource src).env = s.env := by cases src <;> rfl
@[simp] theorem clearSource_history (s : State) (src : Source) : (s.clearSource src).history = s.history := by cases src <;> rfl

@[simp] theorem clearSource_rd (s : State) (src : Source) (st : Store) (a : Nat) : (s.clearSource src).rd st a = s.rd st a := by cases src <;> rfl

/-! ## What the updates write -/

@[simp] theorem setRegs_fg_fg (s : State) (r : PortRegs) : (s.setRegs .fg r).fg = r := rfl
@[simp] theorem setRegs_fg_irq (s : State) (r : PortRegs) : (s.setRegs .fg r).irq = s.irq := rfl
@[simp] theorem setRegs_irq_irq (s : State) (r : PortRegs) : (s.setRegs .irq r).irq = r := rfl
@[simp] theorem setRegs_irq_fg (s : State) (r : PortRegs) : (s.setRegs .irq r).fg = s.fg := rfl
@[simp] theorem setErr_fg_fg (s : State) (c : Byte) : (s.setErr .fg c).fg = { s.fg with err := c } := rfl
@[simp] theorem setErr_fg_irq (s : State) (c : Byte) : (s.setErr .fg c).irq = s.irq := rfl
@[simp] theorem setErr_irq_irq (s : State) (c : Byte) : (s.setErr .irq c).irq = { s.irq with err := c } := rfl
@[simp] theorem setErr_irq_fg (s : State) (c : Byte) : (s.setErr .irq c).fg = s.fg := rfl
@[simp] theorem raise_fatal (s : State) (e : ErrCode) : (s.raise e).fatal = (s.fatal || e.isFatal) := rfl
@[simp] theorem setCursors_srx (s : State) (c : Cursors) : (s.setCursors .srx c).srx = c := rfl
@[simp] theorem setCursors_srx_stx (s : State) (c : Cursors) : (s.setCursors .srx c).stx = s.stx := rfl
@[simp] theorem setCursors_stx (s : State) (c : Cursors) : (s.setCursors .stx c).stx = c := rfl
@[simp] theorem setCursors_stx_srx (s : State) (c : Cursors) : (s.setCursors .stx c).srx = s.srx := rfl
@[simp] theorem record_history (s : State) (e : Event) : (s.record e).history = s.history ++ [e] := rfl
@[simp] theorem setSch_state (s : State) (st : SchState) : (s.setSch st).sch.state = st := rfl
@[simp] theorem suspend_bulk (s : State) (b : Bulk) : (s.suspend b).bulk = some b := rfl
@[simp] theorem finishBulk_bulk (s : State) (v : Half) (e : Byte) : (s.finishBulk v e).bulk = none := rfl
@[simp] theorem finishBulk_fg (s : State) (v : Half) (e : Byte) : (s.finishBulk v e).fg = ⟨v, e⟩ := rfl
@[simp] theorem onPort_port (s : State) (p : Port) : (s.onPort p).port = p := rfl

end Sys2Proof.Machine.State
end

