-- ==== Sys2Proof/Laws/Memory.lean ====
section
/-! SUPPORT. What one read of a byte gives after a write, that every memory operation keeps the canonical form, and what
`MemWrite` and `MemRead` do. -/

namespace Sys2Proof.Machine

/-! ## The list of written bytes -/

theorem Memory.lookup_store_same (m : Memory) (a : Nat) (v : Byte) :
    Memory.lookup (Memory.store m a v) a = some v := by
  induction m with
  | nil => simp [Memory.store, Memory.lookup]
  | cons x m ih =>
    obtain ⟨k, b⟩ := x
    simp only [Memory.store]
    split
    · simp [Memory.lookup]
    · split
      · simp [Memory.lookup]
      · rename_i h
        simp [Memory.lookup, Ne.symm h, ih]

theorem Memory.lookup_store_other (m : Memory) {a a' : Nat} (v : Byte) (h : a' ≠ a) :
    Memory.lookup (Memory.store m a v) a' = Memory.lookup m a' := by
  induction m with
  | nil => simp [Memory.store, Memory.lookup, h.symm]
  | cons x m ih =>
    obtain ⟨k, b⟩ := x
    simp only [Memory.store]
    split
    · simp [Memory.lookup, h.symm]
    · split
      · rename_i hk
        simp [Memory.lookup, h.symm, ← hk]
      · simp only [Memory.lookup, ih]

/-- A key of a memory after a store is the key stored to or a key of the memory before. -/
theorem Memory.mem_store {m : Memory} {a : Nat} {v : Byte} {x : Host.Cell} (h : x ∈ Memory.store m a v) :
    x.1 = a ∨ x ∈ m := by
  induction m with
  | nil => simp_all [Memory.store]
  | cons y m ih =>
    obtain ⟨k, b⟩ := y
    simp only [Memory.store] at h
    split at h
    · rcases List.mem_cons.1 h with rfl | h
      · exact .inl rfl
      · exact .inr h
    · split at h
      · rcases List.mem_cons.1 h with rfl | h
        · exact .inl rfl
        · exact .inr (List.mem_cons_of_mem _ h)
      · rcases List.mem_cons.1 h with rfl | h
        · exact .inr List.mem_cons_self
        · exact (ih h).imp id (List.mem_cons_of_mem _)

/-- A store keeps the canonical form. -/
theorem Memory.store_wf {m : Memory} (h : Memory.wf m) (a : Nat) (v : Byte) : Memory.wf (Memory.store m a v) := by
  induction m with
  | nil => simp [Memory.store, Memory.wf]
  | cons y m ih =>
    obtain ⟨k, b⟩ := y
    obtain ⟨hk, hm⟩ := List.pairwise_cons.1 h
    simp only [Memory.store]
    split
    · rename_i hlt
      refine List.pairwise_cons.2 ⟨fun x hx => ?_, h⟩
      rcases List.mem_cons.1 hx with rfl | hx
      · exact hlt
      · exact hlt.trans (hk x hx)
    · split
      · rename_i heq
        subst heq
        exact List.pairwise_cons.2 ⟨hk, hm⟩
      · rename_i h1 h2
        refine List.pairwise_cons.2 ⟨fun x hx => ?_, ih hm⟩
        rcases Memory.mem_store hx with hx | hx
        · have : x.1 = a := hx
          simp only [this]
          omega
        · exact hk x hx

/-! ## Reading a byte after a write -/

theorem Store.key_inj {st st' : Store} {a a' : Nat} (h : st.key a = st'.key a') : st = st' ∧ a = a' := by
  unfold Store.key at h
  have hn : st.number = st'.number := by
    have h1 : st.number < 8 := by cases st <;> decide
    have h2 : st'.number < 8 := by cases st' <;> decide
    omega
  refine ⟨?_, by omega⟩
  revert hn
  cases st <;> cases st' <;> decide

theorem State.rd_wr_same (s : State) (st : Store) (a : Nat) (v : Byte) : (s.wr st a v).rd st a = v := by
  simp [State.rd, State.wr, Memory.lookup_store_same]

theorem State.rd_wr_other (s : State) {st st' : Store} {a a' : Nat} (v : Byte) (h : st' ≠ st ∨ a' ≠ a) :
    (s.wr st a v).rd st' a' = s.rd st' a' := by
  have hk : st'.key a' ≠ st.key a := fun hk => by
    have := Store.key_inj hk
    tauto
  simp [State.rd, State.wr, Memory.lookup_store_other _ _ hk]

/-- A write, seen through any read. -/
theorem State.rd_wr (s : State) (st st' : Store) (a a' : Nat) (v : Byte) :
    (s.wr st a v).rd st' a' = if st' = st ∧ a' = a then v else s.rd st' a' := by
  split
  · rename_i h
    rw [h.1, h.2, State.rd_wr_same]
  · rename_i h
    exact State.rd_wr_other s v (by tauto)

/-- A read depends on the memory and on the number of hardware resets only. -/
theorem State.rd_congr {s t : State} (hm : s.mem = t.mem) (he : s.env.epoch = t.env.epoch) (st : Store) (a : Nat) :
    s.rd st a = t.rd st a := by
  simp [State.rd, hm, he]

/-! ## MemRead and MemWrite (R12) -/

@[simp] theorem State.readBytes_length (s : State) (st : Store) (n : Nat) : (s.readBytes st n).length = n := by
  simp [State.readBytes]

theorem State.readBytes_getElem (s : State) (st : Store) (n j : Nat) (h : j < (s.readBytes st n).length) :
    (s.readBytes st n)[j] = s.rd st j := by
  simp [State.readBytes]

/-- `MemWrite` changes the memory only. -/
theorem State.writeBytes_eq (st : Store) (bs : List Byte) :
    ∀ (a : Nat) (s : State), s.writeBytes st a bs = { s with mem := (s.writeBytes st a bs).mem } := by
  induction bs with
  | nil => intro a s; rfl
  | cons b bs ih =>
    intro a s
    have h := ih (a + 1) (s.wr st a b)
    rw [State.writeBytes, h]
    rfl

@[simp] theorem State.writeBytes_cfg (s : State) (st : Store) (a : Nat) (bs : List Byte) :
    (s.writeBytes st a bs).cfg = s.cfg := by rw [State.writeBytes_eq]
@[simp] theorem State.writeBytes_fg (s : State) (st : Store) (a : Nat) (bs : List Byte) :
    (s.writeBytes st a bs).fg = s.fg := by rw [State.writeBytes_eq]
@[simp] theorem State.writeBytes_irq (s : State) (st : Store) (a : Nat) (bs : List Byte) :
    (s.writeBytes st a bs).irq = s.irq := by rw [State.writeBytes_eq]
@[simp] theorem State.writeBytes_corr (s : State) (st : Store) (a : Nat) (bs : List Byte) :
    (s.writeBytes st a bs).corr = s.corr := by rw [State.writeBytes_eq]
@[simp] theorem State.writeBytes_tickCond (s : State) (st : Store) (a : Nat) (bs : List Byte) :
    (s.writeBytes st a bs).tickCond = s.tickCond := by rw [State.writeBytes_eq]
@[simp] theorem State.writeBytes_tun (s : State) (st : Store) (a : Nat) (bs : List Byte) :
    (s.writeBytes st a bs).tun = s.tun := by rw [State.writeBytes_eq]
@[simp] theorem State.writeBytes_cnt (s : State) (st : Store) (a : Nat) (bs : List Byte) :
    (s.writeBytes st a bs).cnt = s.cnt := by rw [State.writeBytes_eq]
@[simp] theorem State.writeBytes_sch (s : State) (st : Store) (a : Nat) (bs : List Byte) :
    (s.writeBytes st a bs).sch = s.sch := by rw [State.writeBytes_eq]
@[simp] theorem State.writeBytes_bridge (s : State) (st : Store) (a : Nat) (bs : List Byte) :
    (s.writeBytes st a bs).bridge = s.bridge := by rw [State.writeBytes_eq]
@[simp] theorem State.writeBytes_rx (s : State) (st : Store) (a : Nat) (bs : List Byte) :
    (s.writeBytes st a bs).rx = s.rx := by rw [State.writeBytes_eq]
@[simp] theorem State.writeBytes_txPending (s : State) (st : Store) (a : Nat) (bs : List Byte) :
    (s.writeBytes st a bs).txPending = s.txPending := by rw [State.writeBytes_eq]
@[simp] theorem State.writeBytes_replyPending (s : State) (st : Store) (a : Nat) (bs : List Byte) :
    (s.writeBytes st a bs).replyPending = s.replyPending := by rw [State.writeBytes_eq]
@[simp] theorem State.writeBytes_hbReq (s : State) (st : Store) (a : Nat) (bs : List Byte) :
    (s.writeBytes st a bs).hbReq = s.hbReq := by rw [State.writeBytes_eq]
@[simp] theorem State.writeBytes_fatal (s : State) (st : Store) (a : Nat) (bs : List Byte) :
    (s.writeBytes st a bs).fatal = s.fatal := by rw [State.writeBytes_eq]
@[simp] theorem State.writeBytes_srx (s : State) (st : Store) (a : Nat) (bs : List Byte) :
    (s.writeBytes st a bs).srx = s.srx := by rw [State.writeBytes_eq]
@[simp] theorem State.writeBytes_stx (s : State) (st : Store) (a : Nat) (bs : List Byte) :
    (s.writeBytes st a bs).stx = s.stx := by rw [State.writeBytes_eq]
@[simp] theorem State.writeBytes_bulk (s : State) (st : Store) (a : Nat) (bs : List Byte) :
    (s.writeBytes st a bs).bulk = s.bulk := by rw [State.writeBytes_eq]
@[simp] theorem State.writeBytes_port (s : State) (st : Store) (a : Nat) (bs : List Byte) :
    (s.writeBytes st a bs).port = s.port := by rw [State.writeBytes_eq]
@[simp] theorem State.writeBytes_env (s : State) (st : Store) (a : Nat) (bs : List Byte) :
    (s.writeBytes st a bs).env = s.env := by rw [State.writeBytes_eq]
@[simp] theorem State.writeBytes_history (s : State) (st : Store) (a : Nat) (bs : List Byte) :
    (s.writeBytes st a bs).history = s.history := by rw [State.writeBytes_eq]

/-- `MemWrite` keeps the canonical form. -/
theorem State.writeBytes_wf (st : Store) (bs : List Byte) :
    ∀ (a : Nat) (s : State), Memory.wf s.mem → Memory.wf (s.writeBytes st a bs).mem := by
  induction bs with
  | nil => intro a s h; exact h
  | cons b bs ih => intro a s h; exact ih (a + 1) _ (Memory.store_wf h _ b)

/-- `MemWrite`, seen through any read. -/
theorem State.rd_writeBytes (st : Store) (bs : List Byte) :
    ∀ (a : Nat) (s : State) (st' : Store) (a' : Nat),
      (s.writeBytes st a bs).rd st' a' =
        if st' = st ∧ a ≤ a' ∧ a' < a + bs.length then bs.getD (a' - a) 0 else s.rd st' a' := by
  induction bs with
  | nil =>
    intro a s st' a'
    rw [if_neg (by simp only [List.length_nil]; omega)]
    rfl
  | cons b bs ih =>
    intro a s st' a'
    rw [State.writeBytes, ih, State.rd_wr]
    simp only [List.length_cons]
    by_cases hst : st' = st
    · by_cases ha : a' = a
      · subst ha
        rw [if_neg (by omega), if_pos ⟨hst, rfl⟩, if_pos (by exact ⟨hst, by omega, by omega⟩)]
        simp
      · by_cases hr : a + 1 ≤ a' ∧ a' < a + 1 + bs.length
        · rw [if_pos ⟨hst, hr⟩, if_pos ⟨hst, by omega, by omega⟩]
          have : a' - a = (a' - (a + 1)) + 1 := by omega
          rw [this, List.getD_cons_succ]
        · rw [if_neg (by tauto), if_neg (by tauto), if_neg (by omega)]
    · simp [hst]

end Sys2Proof.Machine
end

