-- ==== Sys2Proof/Laws/Interleaver.lean ====
section
/-! SUPPORT. The permutation of the interleaver (`spec/42_interleaver.md` R183, R184), and its reads and writes bit by
bit, on a block held as a list and on BLK (R187 to R190). -/

namespace Sys2Proof.Machine

/-! ## The permutation -/

theorem supported_iff (c : Config) (n : Nat) :
    supported c n = true ↔ 1 ≤ n ∧ n ≤ 255 ∧ Nat.Coprime (strideOf c n) (8 * n) := by
  simp [supported, Nat.Coprime, and_assoc]

theorem phys_lt (c : Config) {n : Nat} (hn : 1 ≤ n) (i : Nat) : phys c n i < 8 * n := Nat.mod_lt _ (by omega)

/-- The byte a physical bit stands in lies inside the block. -/
theorem phys_byte_lt (c : Config) {n : Nat} (hn : 1 ≤ n) (i : Nat) : phys c n i / 8 < n := by
  have := phys_lt c hn i
  omega

theorem phys_zero (c : Config) (n : Nat) : phys c n 0 = 0 := by simp [phys]

/-- Two logical bits of a supported block stand in two places (R184). -/
theorem phys_inj {c : Config} {n : Nat} (h : supported c n = true) {i j : Nat} (hi : i < 8 * n) (hj : j < 8 * n)
    (hp : phys c n i = phys c n j) : i = j := by
  obtain ⟨-, -, hc⟩ := (supported_iff c n).1 h
  have : i ≡ j [MOD 8 * n] := Nat.ModEq.cancel_right_of_coprime (Nat.gcd_comm _ _ ▸ hc) hp
  rwa [Nat.ModEq, Nat.mod_eq_of_lt hi, Nat.mod_eq_of_lt hj] at this

/-- Every physical bit of a supported block is some logical bit (R184). -/
theorem phys_surj {c : Config} {n : Nat} (h : supported c n = true) {p : Nat} (hp : p < 8 * n) :
    ∃ i, i < 8 * n ∧ phys c n i = p := by
  have hn := ((supported_iff c n).1 h).1
  have hinj : Function.Injective fun i : Fin (8 * n) => (⟨phys c n i, phys_lt c hn i⟩ : Fin (8 * n)) :=
    fun i j hij => Fin.ext (phys_inj h i.2 j.2 (Fin.ext_iff.1 hij))
  obtain ⟨i, hi⟩ := (Finite.injective_iff_surjective.1 hinj) ⟨p, hp⟩
  exact ⟨i, i.2, Fin.ext_iff.1 hi⟩

/-! ## A block as a list -/

/-- Bit `p` of a block (R79). -/
abbrev blockBit (block : List Byte) (p : Nat) : Bool := (block.getD (p / 8) 0).getLsbD (p % 8)

@[simp] theorem setPhysBit_length (p : Nat) (v : Bool) (block : List Byte) :
    (setPhysBit p v block).length = block.length := by simp [setPhysBit]

/-- Setting a bit of a block, seen through any bit. -/
theorem blockBit_setPhysBit {p : Nat} (v : Bool) {block : List Byte} (hp : p / 8 < block.length) (q : Nat) :
    blockBit (setPhysBit p v block) q = if q = p then v else blockBit block q := by
  have hq : q % 8 < 8 := Nat.mod_lt _ (by omega)
  by_cases hb : q / 8 = p / 8
  · have e : (setPhysBit p v block).getD (q / 8) 0 = setByteBit (block.getD (q / 8) 0) (p % 8) v := by
      rw [setPhysBit, List.getD_eq_getElem _ _ (by rw [List.length_modify]; omega), List.getElem_modify,
        if_pos hb.symm, List.getD_eq_getElem _ _ (by omega)]
    rw [blockBit, e, setByteBit_getLsbD _ _ _ hq]
    by_cases hqp : q % 8 = p % 8
    · rw [if_pos hqp, if_pos (by omega)]
    · rw [if_neg hqp, if_neg (by intro h; exact hqp (by rw [h]))]
  · have e : (setPhysBit p v block).getD (q / 8) 0 = block.getD (q / 8) 0 := by
      rw [setPhysBit]
      simp only [List.getD_eq_getElem?_getD, List.getElem?_modify, if_neg (Ne.symm hb)]
      simp
    rw [blockBit, e, if_neg (by intro h; exact hb (by rw [h]))]

/-- Eight bit writes, seen through any bit: the last place written wins, and the places are distinct. -/
theorem foldl_setPhysBit {block : List Byte} (place : Nat → Nat) (bit : Nat → Bool) (m : Nat)
    (hin : ∀ j, j < m → place j / 8 < block.length)
    (hdist : ∀ i j, i < m → j < m → place i = place j → i = j) :
    let out := (List.range m).foldl (fun b j => setPhysBit (place j) (bit j) b) block
    out.length = block.length
    ∧ (∀ j, j < m → blockBit out (place j) = bit j)
    ∧ ∀ q, (∀ j, j < m → q ≠ place j) → blockBit out q = blockBit block q := by
  induction m with
  | zero => simp
  | succ m ih =>
    obtain ⟨hl, hset, hkeep⟩ := ih (fun j hj => hin j (by omega)) (fun i j hi hj => hdist i j (by omega) (by omega))
    rw [List.range_succ, List.foldl_append]
    simp only [List.foldl_cons, List.foldl_nil]
    have hm := hin m (by omega)
    refine ⟨by rw [setPhysBit_length, hl], fun j hj => ?_, fun q hq => ?_⟩
    · rw [blockBit_setPhysBit _ (by rw [hl]; exact hm)]
      by_cases hjm : j = m
      · simp [hjm]
      · rw [if_neg (fun h => hjm (hdist j m (by omega) (by omega) h)), hset j (by omega)]
    · rw [blockBit_setPhysBit _ (by rw [hl]; exact hm), if_neg (hq m (by omega)), hkeep q fun j hj => hq j (by omega)]

/-- `set_byte` (R189): the eight bits of logical byte `k` take the bits of the value, every other bit stays. -/
theorem scatterByte_spec {c : Config} {n : Nat} (h : supported c n = true) {block : List Byte} (hl : block.length = n)
    {k : Nat} (hk : k < n) (val : Byte) :
    (scatterByte c n block k val).length = n
    ∧ (∀ j, j < 8 → blockBit (scatterByte c n block k val) (phys c n (8 * k + j)) = val.getLsbD j)
    ∧ ∀ q, (∀ j, j < 8 → q ≠ phys c n (8 * k + j)) →
        blockBit (scatterByte c n block k val) q = blockBit block q := by
  have hn := ((supported_iff c n).1 h).1
  obtain ⟨h1, h2, h3⟩ := foldl_setPhysBit (block := block) (fun j => phys c n (8 * k + j)) (byteBit val) 8
    (fun j _ => by rw [hl]; exact phys_byte_lt c hn _)
    (fun i j hi hj hij => by have := phys_inj h (by omega) (by omega) hij; omega)
  exact ⟨h1.trans hl, fun j hj => by rw [← byteBit_eq_getLsbD]; exact h2 j hj, h3⟩

/-- `Interleave` (R190) after its first `m` bytes: their bits stand at their places. -/
theorem interleave_prefix {c : Config} {n : Nat} (h : supported c n = true) (block : List Byte) (m : Nat) (hm : m ≤ n) :
    let out := (List.range m).foldl (fun acc k => scatterByte c n acc k (block.getD k 0)) (List.replicate n 0)
    out.length = n ∧ ∀ i, i < 8 * m → blockBit out (phys c n i) = blockBit block i := by
  induction m with
  | zero => simp
  | succ m ih =>
    obtain ⟨hl, hb⟩ := ih (by omega)
    rw [List.range_succ, List.foldl_append]
    simp only [List.foldl_cons, List.foldl_nil]
    obtain ⟨h1, h2, h3⟩ := scatterByte_spec h hl (show m < n by omega) (block.getD m 0)
    refine ⟨h1, fun i hi => ?_⟩
    by_cases hi' : i < 8 * m
    · rw [h3 _ (fun j hj hij => by have := phys_inj h (by omega) (by omega) hij; omega), hb i hi']
    · have e : 8 * m + i % 8 = i := by omega
      have e2 : i / 8 = m := by omega
      have := h2 (i % 8) (by omega)
      rw [e] at this
      rw [this]
      show _ = (block.getD (i / 8) 0).getLsbD (i % 8)
      rw [e2]

@[simp] theorem scatterByte_length (c : Config) (n : Nat) (block : List Byte) (k : Nat) (val : Byte) :
    (scatterByte c n block k val).length = block.length := by
  simp [scatterByte, List.range_succ]

/-- Interleaving keeps the length, whatever the size. -/
@[simp] theorem interleave_length (c : Config) (n : Nat) (block : List Byte) : (interleave c n block).length = n := by
  have key : ∀ (ks : List Nat) (acc : List Byte),
      (ks.foldl (fun acc k => scatterByte c n acc k (block.getD k 0)) acc).length = acc.length := by
    intro ks
    induction ks with
    | nil => intro acc; rfl
    | cons k ks ih => intro acc; rw [List.foldl_cons, ih, scatterByte_length]
  rw [interleave, key, List.length_replicate]

/-- Bit `PHYS(n, i)` of the interleaved block is logical bit `i` (R190). -/
theorem blockBit_interleave {c : Config} {n : Nat} (h : supported c n = true) (block : List Byte) {i : Nat}
    (hi : i < 8 * n) : blockBit (interleave c n block) (phys c n i) = blockBit block i :=
  (interleave_prefix h block n le_rfl).2 i hi

/-- Bit `j` of the byte `get_byte` gives (R188). -/
theorem gatherByte_getLsbD (c : Config) (n : Nat) (rd : Nat → Byte) (k : Nat) {j : Nat} (hj : j < 8) :
    (gatherByte c n rd k).getLsbD j = (rd (phys c n (8 * k + j) / 8)).getLsbD (phys c n (8 * k + j) % 8) := by
  rw [gatherByte, byteOfBits_getLsbD _ hj, physBit, byteBit_eq_getLsbD]

@[simp] theorem deinterleave_length (c : Config) (n : Nat) (block : List Byte) :
    (deinterleave c n block).length = n := by simp [deinterleave]

/-- Logical bit `i` of a de-interleaved block is bit `PHYS(n, i)` (R190). -/
theorem blockBit_deinterleave (c : Config) (n : Nat) (block : List Byte) {i : Nat} (hi : i < 8 * n) :
    blockBit (deinterleave c n block) i = blockBit block (phys c n i) := by
  have h1 : i / 8 < n := by omega
  have e : 8 * (i / 8) + i % 8 = i := by omega
  rw [blockBit, deinterleave, List.getD_eq_getElem _ _ (by simpa using h1)]
  simp only [List.getElem_map, List.getElem_range]
  rw [gatherByte_getLsbD _ _ _ _ (Nat.mod_lt _ (by omega)), e]

/-- Two blocks of one length with the same bits are the same. -/
theorem block_ext {x y : List Byte} (hl : x.length = y.length)
    (h : ∀ i, i < 8 * x.length → blockBit x i = blockBit y i) : x = y := by
  refine List.ext_getElem hl fun k hk hk' => byte_ext fun j hj => ?_
  have e1 : (8 * k + j) / 8 = k := by omega
  have e2 : (8 * k + j) % 8 = j := by omega
  have := h (8 * k + j) (by omega)
  rwa [blockBit, blockBit, e1, e2, List.getD_eq_getElem _ _ hk, List.getD_eq_getElem _ _ hk'] at this

/-! ## BLK -/

@[simp] theorem State.setBlkBit_cfg (s : State) (p : Nat) (v : Bool) : (s.setBlkBit p v).cfg = s.cfg := rfl

/-- Setting a bit of BLK changes the memory only. -/
theorem State.setBlkBit_eq (s : State) (p : Nat) (v : Bool) :
    s.setBlkBit p v = { s with mem := (s.setBlkBit p v).mem } := rfl

/-- Setting a bit of BLK, seen through any bit of BLK. -/
theorem State.blkBit_setBlkBit (s : State) (p : Nat) (v : Bool) (q : Nat) :
    ((s.setBlkBit p v).rd .blk (q / 8)).getLsbD (q % 8) =
      if q = p then v else (s.rd .blk (q / 8)).getLsbD (q % 8) := by
  rw [State.setBlkBit, State.rd_wr]
  by_cases hb : q / 8 = p / 8
  · rw [if_pos ⟨rfl, hb⟩, setByteBit_getLsbD _ _ _ (Nat.mod_lt _ (by omega))]
    by_cases hqp : q % 8 = p % 8
    · rw [if_pos hqp, if_pos (by omega)]
    · rw [if_neg hqp, if_neg (by intro h; exact hqp (by rw [h])), hb]
  · rw [if_neg (fun h => hb h.2), if_neg (by intro h; exact hb (by rw [h]))]

theorem State.setBlkBit_wf {s : State} (h : Memory.wf s.mem) (p : Nat) (v : Bool) :
    Memory.wf (s.setBlkBit p v).mem := Memory.store_wf h _ _

/-- `set_byte` on BLK (R189): what it does to any bit of BLK and to any byte, and that it changes the memory only. -/
theorem State.scatterBlk_spec {s : State} {n : Nat} (h : supported s.cfg n = true) {k : Nat} (hk : k < n) (val : Byte) :
    let t := s.scatterBlk n k val
    (∀ j, j < 8 →
      (t.rd .blk (phys s.cfg n (8 * k + j) / 8)).getLsbD (phys s.cfg n (8 * k + j) % 8) = val.getLsbD j)
    ∧ (∀ p, (∀ j, j < 8 → p ≠ phys s.cfg n (8 * k + j)) →
        (t.rd .blk (p / 8)).getLsbD (p % 8) = (s.rd .blk (p / 8)).getLsbD (p % 8))
    ∧ (∀ st a, ¬ (st = .blk ∧ ∃ j, j < 8 ∧ a = phys s.cfg n (8 * k + j) / 8) → t.rd st a = s.rd st a)
    ∧ t = { s with mem := t.mem } ∧ (Memory.wf s.mem → Memory.wf t.mem) := by
  have hn := ((supported_iff s.cfg n).1 h).1
  have key : ∀ m, m ≤ 8 →
      let t := (List.range m).foldl
        (fun t j => t.setBlkBit (phys s.cfg n (8 * k + j)) (byteBit val j)) s
      (∀ j, j < m →
        (t.rd .blk (phys s.cfg n (8 * k + j) / 8)).getLsbD (phys s.cfg n (8 * k + j) % 8) = val.getLsbD j)
      ∧ (∀ p, (∀ j, j < m → p ≠ phys s.cfg n (8 * k + j)) →
          (t.rd .blk (p / 8)).getLsbD (p % 8) = (s.rd .blk (p / 8)).getLsbD (p % 8))
      ∧ (∀ st a, ¬ (st = .blk ∧ ∃ j, j < m ∧ a = phys s.cfg n (8 * k + j) / 8) → t.rd st a = s.rd st a)
      ∧ t = { s with mem := t.mem } ∧ (Memory.wf s.mem → Memory.wf t.mem) := by
    intro m
    induction m with
    | zero => intro _; simp
    | succ m ih =>
      intro hm
      obtain ⟨h1, h2, h3, h4, h5⟩ := ih (by omega)
      rw [List.range_succ, List.foldl_append]
      simp only [List.foldl_cons, List.foldl_nil]
      refine ⟨fun j hj => ?_, fun p hp => ?_, fun st a hsa => ?_, ?_, fun hwf => State.setBlkBit_wf (h5 hwf) _ _⟩
      · rw [State.blkBit_setBlkBit]
        by_cases hjm : j = m
        · rw [hjm, if_pos rfl, byteBit_eq_getLsbD]
        · rw [if_neg (fun hp => hjm (by have := phys_inj h (by omega) (by omega) hp; omega)), h1 j (by omega)]
      · rw [State.blkBit_setBlkBit, if_neg (hp m (by omega)), h2 p fun j hj => hp j (by omega)]
      · rw [State.setBlkBit, State.rd_wr, if_neg (fun hc => hsa ⟨hc.1, m, by omega, hc.2⟩),
          h3 st a (fun hc => hsa ⟨hc.1, by obtain ⟨j, hj, ha⟩ := hc.2; exact ⟨j, by omega, ha⟩⟩)]
      · rw [State.setBlkBit_eq, h4]
  exact key 8 le_rfl

end Sys2Proof.Machine
end

