-- ==== Sys2Proof/Laws/Framer.lean ====
section
/-! SUPPORT. Lengths and ranges of the codec (`spec/00_scope.md` R6, R8), and what `Frame` and `Deframe` give
(`spec/43_framer.md` R212, R216). -/

namespace Sys2Proof.Machine

/-! ## The codec -/

@[simp] theorem fit_length (n : Nat) (bs : List Byte) : (fit n bs).length = n := by
  simp only [fit, List.length_append, List.length_take, List.length_replicate]
  omega

/-- A sequence of the right length is left alone. -/
theorem fit_eq_self {n : Nat} {bs : List Byte} (h : bs.length = n) : fit n bs = bs := by
  simp [fit, ← h]

@[simp] theorem fecEncode_length (c : Config) (block : List Byte) : (fecEncode c block).length = c.fecN := by
  unfold fecEncode
  split <;> simp

@[simp] theorem majorityBlock_length (k : Nat) (word : List Byte) : (majorityBlock k word).length = k := by
  simp [majorityBlock]

/-- A decoded block has FEC_K bytes (R6). -/
theorem fecDecode_length {c : Config} {word block : List Byte} {count : Nat}
    (h : fecDecode c word = .ok block count) : block.length = c.fecK := by
  unfold fecDecode at h
  split at h
  · split at h
    · injection h with h _
      rw [← h, fit_length]
    · cases h
  · split at h
    · injection h with h _
      rw [← h, fit_length]
    · cases h
  · injection h with h _
    rw [← h, majorityBlock_length]

/-- What the test of R8 on `BackoffFn` says. -/
theorem Config.dependsOnNetid_iff {f : Nat → Nat → Nat → Nat} :
    Config.dependsOnNetid f = true ↔
      ∃ netid slot retry, netid < 65536 ∧ slot < 256 ∧ retry < 256 ∧ f netid slot retry ≠ f 0 slot retry := by
  simp only [Config.dependsOnNetid, List.any_eq_true, List.mem_range, bne_iff_ne]
  constructor
  · rintro ⟨a, ha, b, hb, c, hc, h⟩
    exact ⟨a, b, c, ha, hb, hc, h⟩
  · rintro ⟨a, b, c, ha, hb, hc, h⟩
    exact ⟨a, ha, b, hb, c, hc, h⟩

/-- `BackoffFn` answers in 1..65535 (R8, R258). -/
theorem backoffFn_range {c : Config} (h : c.wf = true) (netid slot retry : Nat) :
    1 ≤ backoffFn c netid slot retry ∧ backoffFn c netid slot retry ≤ 65535 := by
  have hb : c.backoffFits = true := by
    simp only [Config.wf, Bool.and_eq_true] at h
    exact h.1.2
  unfold backoffFn
  unfold Config.backoffFits at hb
  split
  · have := Nat.mod_lt (Config.backoffFree netid slot retry) (show 0 < 65535 by omega)
    unfold Config.externalBackoff
    omega
  · rename_i span hs
    rw [hs] at hb
    simp only [Bool.and_eq_true, decide_eq_true_eq] at hb
    have := Nat.mod_lt (netid + slot + retry) (show 0 < span by omega)
    omega

/-! ## Frame -/

@[simp] theorem padBlock_length (c : Config) (payload : List Byte) : (padBlock c payload).length = c.fecK := by
  simp only [padBlock, List.length_append, List.length_take, List.length_replicate]
  omega

/-- A payload that fits comes back from its padded block (R212, R218). -/
theorem padBlock_take {c : Config} {payload : List Byte} (h : payload.length ≤ c.fecK) :
    (padBlock c payload).take payload.length = payload := by
  rw [padBlock, List.take_of_length_le h, List.take_left']
  rfl

@[simp] theorem frameHeader_length (type seq sender : Byte) (netid : Half) (len : Nat) :
    (frameHeader type seq sender netid len).length = 6 := rfl

theorem frame_radio_length (c : Config) (type seq sender : Byte) (netid : Half) (payload : List Byte) :
    (frame c type seq sender netid payload).1.length = c.frameLen := by
  simp [frame, Config.frameLen, Config.hdrLen]

theorem frame_block_length (c : Config) (type seq sender : Byte) (netid : Half) (payload : List Byte) :
    (frame c type seq sender netid payload).2.length = c.fecK := by
  simp [frame]

/-! ## Deframe -/

/-- The lengths in a successful `Deframe` (R216). -/
theorem deframe_ok_lengths {c : Config} {radio : List Byte} {d : Deframed} (h : deframe c radio = .ok d) :
    d.payload.length ≤ c.fecK ∧ d.block.length = c.fecK := by
  unfold deframe at h
  split at h
  · cases h
  · split at h
    · cases h
    · rename_i block count hd
      injection h with h
      subst h
      refine ⟨?_, fecDecode_length hd⟩
      simp only [List.length_take, deinterleave_length]
      omega

end Sys2Proof.Machine
end

