-- ==== Sys2Proof/Laws/Receive.lean ====
section
/-! SUPPORT. What the receive step of a tick can do (`spec/44_scheduler.md` R243 to R246): said once, for every answer of
the radio and of the command interpreter. -/

namespace Sys2Proof.Machine

/-! ## Small pieces -/

/-- Setting a bit of TICKCOND keeps it inside its 13 bits (R24). -/
theorem setCond_bound {x : Half} (h : x.toNat < 2 ^ 13) {b : Nat} (hb : b < 13) :
    (x ||| BitVec.twoPow 16 b).toNat < 2 ^ 13 := by
  rw [BitVec.toNat_or]
  refine Nat.or_lt_two_pow h ?_
  interval_cases b <;> decide

theorem State.setCond_bounded {s : State} (h : s.tickCond.toNat < 2 ^ 13) {b : Nat} (hb : b < 13) :
    (s.setCond b).tickCond.toNat < 2 ^ 13 := setCond_bound h hb

theorem State.setCondIf_bounded {s : State} (h : s.tickCond.toNat < 2 ^ 13) (p : Bool) {b : Nat} (hb : b < 13) :
    (s.setCondIf p b).tickCond.toNat < 2 ^ 13 := by
  cases p
  · exact h
  · exact setCond_bound h hb

/-- The inputs a command has not used yet are the same: what is presented, the choices, the reset count. -/
def SameInputs (e e' : Env) : Prop := e'.program = e.program ∧ e'.preempt = e.preempt ∧ e'.epoch = e.epoch

theorem State.storeFrame_eq (s : State) (radio block : List Byte) :
    s.storeFrame radio block = { s with mem := (s.storeFrame radio block).mem } := by
  unfold State.storeFrame
  rw [State.writeBytes_eq, State.writeBytes_eq]

theorem State.storeDeframed_eq (s : State) (d : Deframed) :
    s.storeDeframed d =
      { s with mem := (s.storeDeframed d).mem, rx := (s.storeDeframed d).rx, corr := (s.storeDeframed d).corr } := by
  unfold State.storeDeframed
  rw [State.writeBytes_eq, State.writeBytes_eq]

/-- A deframed packet goes to the head of BLK and of PAY. -/
theorem State.rd_storeDeframed (s : State) (d : Deframed) (st : Store) (a : Nat) :
    (s.storeDeframed d).rd st a =
      if st = .pay ∧ a < d.payload.length then d.payload.getD a 0
      else if st = .blk ∧ a < d.block.length then d.block.getD a 0
      else s.rd st a := by
  have h : (s.storeDeframed d).rd st a = ((s.writeBytes .blk 0 d.block).writeBytes .pay 0 d.payload).rd st a :=
    State.rd_congr rfl (by simp [State.storeDeframed]) st a
  rw [h, State.rd_writeBytes, State.rd_writeBytes]
  simp

/-- A frame goes to TXB and its interleaved block to the head of BLK. -/
theorem State.rd_storeFrame (s : State) (radio block : List Byte) (st : Store) (a : Nat) :
    (s.storeFrame radio block).rd st a =
      if st = .txb ∧ a < radio.length then radio.getD a 0
      else if st = .blk ∧ a < block.length then block.getD a 0
      else s.rd st a := by
  rw [State.storeFrame, State.rd_writeBytes, State.rd_writeBytes]
  simp

theorem State.storeFrame_wf {s : State} (h : Memory.wf s.mem) (radio block : List Byte) :
    Memory.wf (s.storeFrame radio block).mem :=
  State.writeBytes_wf _ _ _ _ (State.writeBytes_wf _ _ _ _ h)

theorem State.storeDeframed_wf {s : State} (h : Memory.wf s.mem) (d : Deframed) :
    Memory.wf (s.storeDeframed d).mem :=
  State.writeBytes_wf .pay d.payload 0 _ (State.writeBytes_wf .blk d.block 0 _ h)

/-! ## The receive step -/

/-- A statistics counter is as it was or one higher, saturating (R40). -/
def CountsUp (c c' : Half) : Prop := c' = c ∨ c' = satInc c

/-- An oracle call that the receive step can make. -/
def Event.ofReceive : Event → Bool
  | .receive _ => true
  | .dispatch _ _ => true
  | .setChannel _ => false
  | .channelClear _ => false
  | .readRssi _ => false
  | .transmit _ _ => false

/-- Everything the receive step can do to a state. -/
structure ReceiveEffect (s t : State) : Prop where
  same : t =
    { s with
      mem := t.mem, rx := t.rx, corr := t.corr, cnt := t.cnt, env := t.env, history := t.history
      tickCond := t.tickCond, replyPending := t.replyPending }
  inputs : SameInputs s.env t.env
  bytes : ∀ st a,
    ¬ ((st = .rxb ∧ a < s.cfg.frameLen) ∨ (st = .blk ∧ a < s.cfg.fecK) ∨ (st = .pay ∧ a < s.cfg.fecK)) →
      t.rd st a = s.rd st a
  memWf : Memory.wf s.mem → Memory.wf t.mem
  overflows : t.cnt.rxOvf = s.cnt.rxOvf ∧ t.cnt.txOvf = s.cnt.txOvf
  counts : CountsUp s.cnt.corr t.cnt.corr ∧ CountsUp s.cnt.uncorr t.cnt.uncorr
  rxLen : t.rx = s.rx ∨ t.rx.len.toNat ≤ s.cfg.fecK
  cond : s.tickCond.toNat < 2 ^ 13 → t.tickCond.toNat < 2 ^ 13
  reply : t.replyPending = s.replyPending ∨ ∃ q, t.replyPending = some q ∧ q.length ≤ 255
  calls : ∃ calls, t.history = s.history ++ calls ∧ ∀ e ∈ calls, e.ofReceive = true

theorem ReceiveEffect.refl (s : State) : ReceiveEffect s s where
  same := rfl
  inputs := ⟨rfl, rfl, rfl⟩
  bytes := fun _ _ _ => rfl
  memWf := id
  overflows := ⟨rfl, rfl⟩
  counts := ⟨.inl rfl, .inl rfl⟩
  rxLen := .inl rfl
  cond := id
  reply := .inl rfl
  calls := ⟨[], by simp⟩

/-- `Cmd.dispatch` answers and its reply is queued (R246). -/
theorem State.remoteAt_effect (s : State) (payload : List Byte) : ReceiveEffect s (s.remoteAt payload) := by
  unfold State.remoteAt
  dsimp only
  have hcond : s.tickCond.toNat < 2 ^ 13 → (s.tickCond ||| BitVec.twoPow 16 condRxDispatched).toNat < 2 ^ 13 :=
    fun h => setCond_bound h (by decide)
  split
  · exact
      { same := rfl, inputs := ⟨rfl, rfl, rfl⟩, bytes := fun _ _ _ => rfl, memWf := id, overflows := ⟨rfl, rfl⟩
        counts := ⟨.inl rfl, .inl rfl⟩, rxLen := .inl rfl, cond := hcond
        reply := .inr ⟨_, rfl, by simp⟩, calls := ⟨[_], rfl, by simp [Event.ofReceive]⟩ }
  · exact
      { same := rfl, inputs := ⟨rfl, rfl, rfl⟩, bytes := fun _ _ _ => rfl, memWf := id, overflows := ⟨rfl, rfl⟩
        counts := ⟨.inl rfl, .inl rfl⟩, rxLen := .inl rfl, cond := hcond
        reply := .inl rfl, calls := ⟨[_], rfl, by simp [Event.ofReceive]⟩ }

/-- One effect after another is one effect. -/
theorem ReceiveEffect.trans {s t u : State} (h : ReceiveEffect s t) (h' : ReceiveEffect t u)
    (hc : (t.cnt.corr = s.cnt.corr ∨ u.cnt.corr = t.cnt.corr) ∧ (t.cnt.uncorr = s.cnt.uncorr ∨ u.cnt.uncorr = t.cnt.uncorr)) :
    ReceiveEffect s u where
  same := by rw [h'.same, h.same]
  inputs := ⟨h'.inputs.1.trans h.inputs.1, h'.inputs.2.1.trans h.inputs.2.1, h'.inputs.2.2.trans h.inputs.2.2⟩
  bytes := fun st a ha => by
    have hcfg : t.cfg = s.cfg := by rw [h.same]
    rw [h'.bytes st a (by rwa [hcfg]), h.bytes st a ha]
  memWf := h'.memWf ∘ h.memWf
  overflows := ⟨h'.overflows.1.trans h.overflows.1, h'.overflows.2.trans h.overflows.2⟩
  counts := by
    obtain ⟨h1, h2⟩ := hc
    refine ⟨?_, ?_⟩
    · rcases h1 with h1 | h1
      · rw [← h1]; exact h'.counts.1
      · rw [h1]; exact h.counts.1
    · rcases h2 with h2 | h2
      · rw [← h2]; exact h'.counts.2
      · rw [h2]; exact h.counts.2
  rxLen := by
    have hcfg : t.cfg = s.cfg := by rw [h.same]
    rcases h'.rxLen with h1 | h1
    · rw [h1]; exact h.rxLen
    · exact .inr (hcfg ▸ h1)
  cond := h'.cond ∘ h.cond
  reply := by
    rcases h'.reply with h1 | h1
    · rw [h1]; exact h.reply
    · exact .inr h1
  calls := by
    obtain ⟨c1, e1, f1⟩ := h.calls
    obtain ⟨c2, e2, f2⟩ := h'.calls
    refine ⟨c1 ++ c2, by rw [e2, e1, List.append_assoc], fun e he => ?_⟩
    rcases List.mem_append.1 he with he | he
    · exact f1 e he
    · exact f2 e he

/-- A bit of TICKCOND is set and nothing else. -/
theorem State.setCond_effect (s : State) {b : Nat} (hb : b < 13) : ReceiveEffect s (s.setCond b) where
  same := rfl
  inputs := ⟨rfl, rfl, rfl⟩
  bytes := fun _ _ _ => rfl
  memWf := id
  overflows := ⟨rfl, rfl⟩
  counts := ⟨.inl rfl, .inl rfl⟩
  rxLen := .inl rfl
  cond := fun h => setCond_bound h hb
  reply := .inl rfl
  calls := ⟨[], by simp⟩

/-- A deframed packet is stored (R244). -/
theorem State.storeDeframed_effect {s : State} {d : Deframed} (hp : d.payload.length ≤ s.cfg.fecK)
    (hb : d.block.length = s.cfg.fecK) : ReceiveEffect s (s.storeDeframed d) where
  same := by
    have h := State.storeDeframed_eq s d
    rw [h]
  inputs := by
    have h := State.storeDeframed_eq s d
    rw [h]
    exact ⟨rfl, rfl, rfl⟩
  bytes := fun st a ha => by
    rw [State.rd_storeDeframed, if_neg (fun hc => ha (.inr (.inr ⟨hc.1, by omega⟩))),
      if_neg (fun hc => ha (.inr (.inl ⟨hc.1, by omega⟩)))]
  memWf := fun h => State.storeDeframed_wf h d
  overflows := by
    rw [State.storeDeframed_eq]
    exact ⟨rfl, rfl⟩
  counts := by
    rw [State.storeDeframed_eq]
    exact ⟨.inl rfl, .inl rfl⟩
  rxLen := .inr (by
    show (BitVec.ofNat 8 d.payload.length).toNat ≤ s.cfg.fecK
    rw [BitVec.toNat_ofNat]
    exact le_trans (Nat.mod_le _ _) hp)
  cond := by
    rw [State.storeDeframed_eq]
    exact id
  reply := by
    rw [State.storeDeframed_eq]
    exact .inl rfl
  calls := by
    rw [State.storeDeframed_eq]
    exact ⟨[], by simp⟩

/-- A corrected block is counted once (R244). -/
theorem State.countCorrected_effect (s : State) :
    ReceiveEffect s { s with cnt := { s.cnt with corr := satInc s.cnt.corr } } where
  same := rfl
  inputs := ⟨rfl, rfl, rfl⟩
  bytes := fun _ _ _ => rfl
  memWf := id
  overflows := ⟨rfl, rfl⟩
  counts := ⟨.inr rfl, .inl rfl⟩
  rxLen := .inl rfl
  cond := id
  reply := .inl rfl
  calls := ⟨[], by simp⟩

/-- The three ways a deframed packet is used keep every counter (R244). -/
theorem State.acceptPacket_effect {s : State} {d : Deframed} (hp : d.payload.length ≤ s.cfg.fecK)
    (hb : d.block.length = s.cfg.fecK) :
    ReceiveEffect s (s.acceptPacket d).2 ∧ (s.acceptPacket d).2.cnt.uncorr = s.cnt.uncorr := by
  have key : ∀ t : State, ReceiveEffect s t → t.cnt.uncorr = s.cnt.uncorr →
      ReceiveEffect s
        (if d.type = tagData ∨ d.type = tagReply then (some d.payload, t)
          else if d.type = tagRemoteAt then (none, t.remoteAt d.payload)
          else (none, t.setCond condRxDropped) : Option (List Byte) × State).2
      ∧ (if d.type = tagData ∨ d.type = tagReply then (some d.payload, t)
          else if d.type = tagRemoteAt then (none, t.remoteAt d.payload)
          else (none, t.setCond condRxDropped) : Option (List Byte) × State).2.cnt.uncorr = s.cnt.uncorr := by
    intro t ht hu
    have hcnt : (t.remoteAt d.payload).cnt = t.cnt := by
      unfold State.remoteAt
      dsimp only
      split <;> rfl
    split
    · exact ⟨ht, hu⟩
    · split
      · exact ⟨ht.trans (t.remoteAt_effect d.payload) ⟨.inr (by rw [hcnt]), .inr (by rw [hcnt])⟩, by rw [hcnt]; exact hu⟩
      · exact ⟨ht.trans (t.setCond_effect (by decide)) ⟨.inr rfl, .inr rfl⟩, hu⟩
  have h0 := State.storeDeframed_effect hp hb
  have hc0 : (s.storeDeframed d).cnt = s.cnt := by rw [State.storeDeframed_eq]
  unfold State.acceptPacket
  dsimp only
  by_cases hc : 0 < d.corrected
  · rw [if_pos hc]
    exact key _ (h0.trans (State.countCorrected_effect _) ⟨.inl (by rw [hc0]), .inl (by rw [hc0])⟩) (by rw [hc0])
  · rw [if_neg hc]
    exact key _ h0 (by rw [hc0])

/-- A frame of this network is deframed and used (R244). -/
theorem State.receiveFrame_effect (s : State) (radio : List Byte) :
    ReceiveEffect s (s.receiveFrame radio).2 := by
  unfold State.receiveFrame
  split
  · exact s.setCond_effect (by decide)
  · exact
      { same := rfl, inputs := ⟨rfl, rfl, rfl⟩, bytes := fun _ _ _ => rfl, memWf := id, overflows := ⟨rfl, rfl⟩
        counts := ⟨.inl rfl, .inr rfl⟩, rxLen := .inl rfl, cond := fun h => setCond_bound h (by decide)
        reply := .inl rfl, calls := ⟨[], by simp⟩ }
  · rename_i d hd
    exact (State.acceptPacket_effect (deframe_ok_lengths hd).1 (deframe_ok_lengths hd).2).1

/-- Everything the receive step of a tick can do (R243 to R246). -/
theorem State.receiveStep_effect (s : State) : ReceiveEffect s s.receiveStep.2 := by
  have ask : ReceiveEffect s s.askReceive.2 :=
    { same := rfl, inputs := ⟨rfl, rfl, rfl⟩, bytes := fun _ _ _ => rfl, memWf := id, overflows := ⟨rfl, rfl⟩
      counts := ⟨.inl rfl, .inl rfl⟩, rxLen := .inl rfl, cond := id, reply := .inl rfl
      calls := ⟨[_], rfl, by simp [Event.ofReceive]⟩ }
  unfold State.receiveStep
  dsimp only
  split
  · exact ask
  · rename_i radio _
    have framed := ask.trans (State.setCond_effect _ (b := condRxFrame) (by decide)) ⟨.inl rfl, .inl rfl⟩
    split
    · exact framed.trans (State.setCond_effect _ (by decide)) ⟨.inl rfl, .inl rfl⟩
    · rename_i hl
      have hl : radio.length = s.cfg.frameLen := not_not.1 hl
      have stored : ReceiveEffect s ((s.askReceive.2.setCond condRxFrame).writeBytes .rxb 0 radio) :=
        framed.trans
          { same := by
              conv_lhs => rw [State.writeBytes_eq]
              simp
            inputs := by
              rw [State.writeBytes_env]
              exact ⟨rfl, rfl, rfl⟩
            bytes := fun st a ha => by
              rw [State.rd_writeBytes, if_neg]
              rintro ⟨rfl, -, h⟩
              exact ha (.inl ⟨rfl, by
                show a < s.cfg.frameLen
                omega⟩)
            memWf := fun h => State.writeBytes_wf _ _ _ _ h
            overflows := by
              rw [State.writeBytes_cnt]
              exact ⟨rfl, rfl⟩
            counts := by
              rw [State.writeBytes_cnt]
              exact ⟨.inl rfl, .inl rfl⟩
            rxLen := .inl (State.writeBytes_rx _ _ _ _)
            cond := by
              rw [State.writeBytes_tickCond]
              exact id
            reply := .inl (State.writeBytes_replyPending _ _ _ _)
            calls := ⟨[], by rw [State.writeBytes_history]; simp, by simp⟩ }
          ⟨.inl rfl, .inl rfl⟩
      have hcnt : ((s.askReceive.2.setCond condRxFrame).writeBytes .rxb 0 radio).cnt = s.cnt :=
        State.writeBytes_cnt _ _ _ _
      split
      · exact stored.trans (State.setCond_effect _ (by decide)) ⟨.inl (by rw [hcnt]), .inl (by rw [hcnt])⟩
      · exact stored.trans (State.receiveFrame_effect _ _)
          ⟨.inl (by rw [hcnt]), .inl (by rw [hcnt])⟩

/-- A payload to deliver fits one frame (R216). -/
theorem State.receiveStep_payload {s : State} {p : List Byte} (h : s.receiveStep.1 = some p) : p.length ≤ s.cfg.fecK := by
  unfold State.receiveStep at h
  dsimp only at h
  split at h
  · cases h
  · split at h
    · cases h
    · split at h
      · cases h
      · unfold State.receiveFrame at h
        split at h
        · cases h
        · cases h
        · rename_i d hd
          have hl := (deframe_ok_lengths hd).1
          rw [State.writeBytes_cfg] at hl
          unfold State.acceptPacket at h
          dsimp only at h
          split at h
          · injection h with h
            rw [← h]
            exact hl
          · split at h <;> cases h

end Sys2Proof.Machine
end

