-- ==== Sys2Proof/Laws/Ring.lean ====
section
/-! SUPPORT. The ring buffers (`spec/41_ring_buffer.md` R151, R153, R154, R163): occupancy, and what one push or one pop
does to the cursors, to the occupancy, to the queued bytes and to every other byte. -/

namespace Sys2Proof.Machine

/-! ## Arithmetic modulo the capacity -/

/-- A sum of two numbers below or at the modulus, reduced by at most one subtraction. -/
theorem add_mod_wrap {a b N : Nat} (ha : a < N) (hb : b ≤ N) : (a + b) % N = if a + b < N then a + b else a + b - N := by
  split
  · exact Nat.mod_eq_of_lt ‹_›
  · rw [Nat.mod_eq_sub_mod (by omega), Nat.mod_eq_of_lt (by omega)]

theorem cursorsOk_iff {cap : Nat} {c : Cursors} : cursorsOk cap c = true ↔ c.insert < cap ∧ c.remove < cap := by
  simp [cursorsOk]

/-- The occupancy without a modulus. -/
theorem State.ringUsed_eq {s : State} {r : Ring} (h : cursorsOk (s.cap r) (s.cursors r) = true) :
    s.ringUsed r = if (s.cursors r).remove ≤ (s.cursors r).insert then (s.cursors r).insert - (s.cursors r).remove
      else (s.cursors r).insert + s.cap r - (s.cursors r).remove := by
  obtain ⟨hi, hr⟩ := cursorsOk_iff.1 h
  unfold State.ringUsed
  split
  · rw [Nat.mod_eq_sub_mod (by omega), Nat.mod_eq_of_lt (by omega)]
    omega
  · rw [Nat.mod_eq_of_lt (by omega)]

theorem State.ringUsed_lt {s : State} {r : Ring} (h : cursorsOk (s.cap r) (s.cursors r) = true) :
    s.ringUsed r < s.cap r := by
  obtain ⟨hi, hr⟩ := cursorsOk_iff.1 h
  exact Nat.mod_lt _ (by omega)

theorem State.ringEmpty_iff {s : State} {r : Ring} (h : cursorsOk (s.cap r) (s.cursors r) = true) :
    s.ringEmpty r = true ↔ s.ringUsed r = 0 := by
  obtain ⟨hi, hr⟩ := cursorsOk_iff.1 h
  rw [State.ringUsed_eq h, State.ringEmpty, beq_iff_eq]
  split <;> omega

theorem State.ringFull_iff {s : State} {r : Ring} (h : cursorsOk (s.cap r) (s.cursors r) = true) :
    s.ringFull r = true ↔ s.ringUsed r = s.cap r - 1 := by
  obtain ⟨hi, hr⟩ := cursorsOk_iff.1 h
  rw [State.ringUsed_eq h, State.ringFull, beq_iff_eq, add_mod_wrap hi (by omega)]
  split <;> split <;> omega

/-- The insert cursor stands `used` places after the remove cursor. -/
theorem State.insert_eq {s : State} {r : Ring} (h : cursorsOk (s.cap r) (s.cursors r) = true) :
    ((s.cursors r).remove + s.ringUsed r) % s.cap r = (s.cursors r).insert := by
  obtain ⟨hi, hr⟩ := cursorsOk_iff.1 h
  rw [add_mod_wrap hr (State.ringUsed_lt h).le, State.ringUsed_eq h]
  split <;> split <;> omega

/-! ## Reading and writing cursors -/

@[simp] theorem State.cursors_setCursors_same (s : State) (r : Ring) (c : Cursors) :
    (s.setCursors r c).cursors r = c := by cases r <;> rfl
theorem State.cursors_setCursors_other (s : State) {r r' : Ring} (h : r' ≠ r) (c : Cursors) :
    (s.setCursors r c).cursors r' = s.cursors r' := by
  cases r <;> cases r' <;> first | rfl | exact absurd rfl h
@[simp] theorem State.cap_setCursors (s : State) (r r' : Ring) (c : Cursors) :
    (s.setCursors r c).cap r' = s.cap r' := by cases r <;> cases r' <;> rfl
@[simp] theorem State.cursors_wr (s : State) (st : Store) (a : Nat) (v : Byte) (r : Ring) :
    (s.wr st a v).cursors r = s.cursors r := by cases r <;> rfl
@[simp] theorem State.cap_wr (s : State) (st : Store) (a : Nat) (v : Byte) (r : Ring) :
    (s.wr st a v).cap r = s.cap r := by cases r <;> rfl
/-- The capacity, the cursors and the bytes of a ring decide its occupancy and its contents. -/
theorem State.ringContents_congr {s t : State} {r : Ring} (hc : t.cap r = s.cap r) (hk : t.cursors r = s.cursors r)
    (hb : ∀ a, t.rd r.storage a = s.rd r.storage a) :
    t.ringUsed r = s.ringUsed r ∧ t.ringContents r = s.ringContents r := by
  have hu : t.ringUsed r = s.ringUsed r := by rw [State.ringUsed, State.ringUsed, hc, hk]
  refine ⟨hu, ?_⟩
  rw [State.ringContents, State.ringContents, hu]
  exact List.map_congr_left fun j _ => by rw [State.ringPeek, State.ringPeek, hb, hc, hk]

/-- A ring is its own store and no other's. -/
theorem Ring.storage_inj {r r' : Ring} (h : r'.storage = r.storage) : r' = r := by
  cases r <;> cases r' <;> first | rfl | cases h

@[simp] theorem State.ringContents_length (s : State) (r : Ring) : (s.ringContents r).length = s.ringUsed r := by
  simp [State.ringContents]

theorem State.ringContents_getElem (s : State) (r : Ring) (j : Nat) (h : j < (s.ringContents r).length) :
    (s.ringContents r)[j] = s.ringPeek r j := by
  simp [State.ringContents]

/-! ## One push -/

@[simp] theorem State.ringPut_cap (s : State) (r r' : Ring) (b : Byte) : (s.ringPut r b).cap r' = s.cap r' := by
  simp [State.ringPut]

theorem State.ringPut_cursors (s : State) (r : Ring) (b : Byte) :
    (s.ringPut r b).cursors r = ⟨((s.cursors r).insert + 1) % s.cap r, (s.cursors r).remove⟩ := by
  simp [State.ringPut]

/-- A push changes the cursors of its ring and the memory only. -/
theorem State.ringPut_eq (s : State) (r : Ring) (b : Byte) :
    s.ringPut r b =
      { s.setCursors r ⟨((s.cursors r).insert + 1) % s.cap r, (s.cursors r).remove⟩ with
        mem := (s.ringPut r b).mem } := by cases r <;> rfl

theorem State.rd_ringPut (s : State) (r : Ring) (b : Byte) (st : Store) (a : Nat) :
    (s.ringPut r b).rd st a = if st = r.storage ∧ a = (s.cursors r).insert then b else s.rd st a := by
  rw [State.ringPut, State.setCursors_rd, State.rd_wr]

theorem State.ringPut_wf {s : State} (h : Memory.wf s.mem) (r : Ring) (b : Byte) : Memory.wf (s.ringPut r b).mem := by
  rw [State.ringPut, State.setCursors_mem]
  exact Memory.store_wf h _ _

theorem State.ringPut_ok {s : State} {r : Ring} (h : cursorsOk (s.cap r) (s.cursors r) = true) (b : Byte) :
    cursorsOk (s.cap r) ((s.ringPut r b).cursors r) = true := by
  obtain ⟨hi, hr⟩ := cursorsOk_iff.1 h
  rw [State.ringPut_cursors]
  exact cursorsOk_iff.2 ⟨Nat.mod_lt _ (by omega), hr⟩

/-- A push into a ring that is not full raises the occupancy by one (R151). -/
theorem State.ringPut_used {s : State} {r : Ring} (h : cursorsOk (s.cap r) (s.cursors r) = true)
    (hf : s.ringFull r = false) (b : Byte) : (s.ringPut r b).ringUsed r = s.ringUsed r + 1 := by
  obtain ⟨hi, hr⟩ := cursorsOk_iff.1 h
  have hne : ((s.cursors r).insert + 1) % s.cap r ≠ (s.cursors r).remove := by
    simpa [State.ringFull] using hf
  have h' : cursorsOk ((s.ringPut r b).cap r) ((s.ringPut r b).cursors r) = true := by
    rw [State.ringPut_cap]
    exact State.ringPut_ok h b
  rw [State.ringUsed_eq h', State.ringUsed_eq h, State.ringPut_cursors, State.ringPut_cap]
  have hN : 1 ≤ s.cap r := by omega
  rw [add_mod_wrap hi hN] at hne ⊢
  dsimp only
  split_ifs at hne ⊢ <;> omega

/-- A push puts its byte last (R153, R163). -/
theorem State.ringPut_contents {s : State} {r : Ring} (h : cursorsOk (s.cap r) (s.cursors r) = true)
    (hf : s.ringFull r = false) (b : Byte) : (s.ringPut r b).ringContents r = s.ringContents r ++ [b] := by
  obtain ⟨hi, hr⟩ := cursorsOk_iff.1 h
  have hu := State.ringUsed_lt h
  rw [State.ringContents, State.ringPut_used h hf, List.range_succ, List.map_append]
  congr 1
  · refine List.map_congr_left fun j hj => ?_
    have hj := List.mem_range.1 hj
    rw [State.ringPeek, State.ringPeek, State.ringPut_cursors, State.ringPut_cap, State.rd_ringPut, if_neg]
    rintro ⟨-, he⟩
    rw [← State.insert_eq h, add_mod_wrap hr (by omega), add_mod_wrap hr (by omega)] at he
    split at he <;> split at he <;> omega
  · rw [List.map_singleton, State.ringPeek, State.ringPut_cursors, State.ringPut_cap, State.rd_ringPut,
      if_pos ⟨rfl, State.insert_eq h⟩]

/-- A push to one ring leaves the other as it is. -/
theorem State.ringPut_other {s : State} {r r' : Ring} (hne : r' ≠ r) (b : Byte) :
    (s.ringPut r b).cursors r' = s.cursors r' ∧ (s.ringPut r b).ringContents r' = s.ringContents r' := by
  have hk : (s.ringPut r b).cursors r' = s.cursors r' := by
    rw [State.ringPut, State.cursors_setCursors_other _ hne, State.cursors_wr]
  refine ⟨hk, (State.ringContents_congr (by simp) hk fun a => ?_).2⟩
  rw [State.rd_ringPut, if_neg fun hc => hne (Ring.storage_inj hc.1)]

/-- `try_push`, case by case (R153). -/
theorem State.tryPush_cases (s : State) (r : Ring) (b : Byte) :
    (s.ringFull r = true ∧ s.tryPush r b = none) ∨ (s.ringFull r = false ∧ s.tryPush r b = some (s.ringPut r b)) := by
  unfold State.tryPush
  cases s.ringFull r <;> simp

/-! ## One pop -/

@[simp] theorem State.ringDrop_cap (s : State) (r r' : Ring) : (s.ringDrop r).cap r' = s.cap r' := by
  simp [State.ringDrop]

theorem State.ringDrop_cursors (s : State) (r : Ring) :
    (s.ringDrop r).cursors r = ⟨(s.cursors r).insert, ((s.cursors r).remove + 1) % s.cap r⟩ := by
  simp [State.ringDrop]

@[simp] theorem State.ringDrop_rd (s : State) (r : Ring) (st : Store) (a : Nat) : (s.ringDrop r).rd st a = s.rd st a := by
  simp [State.ringDrop]

theorem State.ringDrop_ok {s : State} {r : Ring} (h : cursorsOk (s.cap r) (s.cursors r) = true) :
    cursorsOk (s.cap r) ((s.ringDrop r).cursors r) = true := by
  obtain ⟨hi, hr⟩ := cursorsOk_iff.1 h
  rw [State.ringDrop_cursors]
  exact cursorsOk_iff.2 ⟨hi, Nat.mod_lt _ (by omega)⟩

/-- A pop from a ring that is not empty lowers the occupancy by one (R151). -/
theorem State.ringDrop_used {s : State} {r : Ring} (h : cursorsOk (s.cap r) (s.cursors r) = true)
    (he : s.ringEmpty r = false) : (s.ringDrop r).ringUsed r + 1 = s.ringUsed r := by
  obtain ⟨hi, hr⟩ := cursorsOk_iff.1 h
  have hne : (s.cursors r).insert ≠ (s.cursors r).remove := by simpa [State.ringEmpty] using he
  have h' : cursorsOk ((s.ringDrop r).cap r) ((s.ringDrop r).cursors r) = true := by
    rw [State.ringDrop_cap]
    exact State.ringDrop_ok h
  rw [State.ringUsed_eq h', State.ringUsed_eq h, State.ringDrop_cursors, State.ringDrop_cap]
  dsimp only
  rw [add_mod_wrap hr (by omega)]
  split_ifs <;> omega

/-- A pop takes the first byte (R154, R163). -/
theorem State.ringDrop_contents {s : State} {r : Ring} (h : cursorsOk (s.cap r) (s.cursors r) = true)
    (he : s.ringEmpty r = false) :
    s.ringContents r = s.rd r.storage (s.cursors r).remove :: (s.ringDrop r).ringContents r := by
  obtain ⟨hi, hr⟩ := cursorsOk_iff.1 h
  have hu := State.ringUsed_lt h
  rw [State.ringContents, ← State.ringDrop_used h he, List.range_succ_eq_map, List.map_cons, List.map_map]
  congr 1
  · rw [State.ringPeek, Nat.add_zero, Nat.mod_eq_of_lt hr]
  · refine List.map_congr_left fun j _ => ?_
    rw [Function.comp, State.ringPeek, State.ringPeek, State.ringDrop_rd, State.ringDrop_cursors, State.ringDrop_cap]
    dsimp only
    rw [Nat.mod_add_mod]
    congr 2
    omega

/-- A pop from one ring leaves the other as it is. -/
theorem State.ringDrop_other {s : State} {r r' : Ring} (hne : r' ≠ r) :
    (s.ringDrop r).cursors r' = s.cursors r' ∧ (s.ringDrop r).ringContents r' = s.ringContents r' := by
  have hk : (s.ringDrop r).cursors r' = s.cursors r' := by
    rw [State.ringDrop, State.cursors_setCursors_other _ hne]
  exact ⟨hk, (State.ringContents_congr (by simp) hk fun a => by simp).2⟩

/-- `try_pop`, case by case (R154). -/
theorem State.tryPop_cases (s : State) (r : Ring) :
    (s.ringEmpty r = true ∧ s.tryPop r = none)
    ∨ (s.ringEmpty r = false ∧ s.tryPop r = some (s.rd r.storage (s.cursors r).remove, s.ringDrop r)) := by
  unfold State.tryPop
  cases s.ringEmpty r <;> simp

end Sys2Proof.Machine
end

