-- ==== Sys2Proof/Laws/Scheduler.lean ====
section
/-! SUPPORT. What T3 and T4 of a tick can do (`spec/44_scheduler.md` R247 to R261): said once for each part, for every answer
of the radio. -/

namespace Sys2Proof.Machine

/-! ## T3: time accounting -/

theorem Config.wf_window {c : Config} (h : c.wf = true) : 1 ≤ c.dcWindowTicks ∧ c.dcWindowTicks ≤ 65535 := by
  simp only [Config.wf, Bool.and_eq_true, decide_eq_true_eq] at h
  omega

theorem Config.wf_slots {c : Config} (h : c.wf = true) :
    (1 ≤ c.numSlots ∧ c.numSlots ≤ 256) ∧ 1 ≤ c.slotTicks ∧ c.slotTicks ≤ 65535 := by
  simp only [Config.wf, Bool.and_eq_true, decide_eq_true_eq] at h
  omega

theorem Config.wf_fec {c : Config} (h : c.wf = true) : (1 ≤ c.fecK ∧ c.fecK ≤ 255) ∧ 1 ≤ c.fecN ∧ c.fecN ≤ 249 := by
  simp only [Config.wf, Bool.and_eq_true, decide_eq_true_eq] at h
  unfold Config.hdrLen at h
  omega

theorem Config.wf_rings {c : Config} (h : c.wf = true) :
    (2 ≤ c.rxCap ∧ c.rxCap ≤ 256) ∧ 2 ≤ c.txCap ∧ c.txCap ≤ 256 := by
  simp only [Config.wf, Bool.and_eq_true, decide_eq_true_eq] at h
  omega

theorem Config.wf_credit {c : Config} (h : c.wf = true) : c.creditMax ≤ 255 := by
  simp only [Config.wf, Bool.and_eq_true, decide_eq_true_eq] at h
  omega

/-- The duty window changes two registers only (R247). -/
theorem State.dutyWindow_eq (s : State) :
    s.dutyWindow =
      { s with
        sch := { s.sch with dcElapsed := s.dutyWindow.sch.dcElapsed, dcTx := s.dutyWindow.sch.dcTx } } := by
  unfold State.dutyWindow
  split <;> rfl

/-- The two cases of the duty window (R247). -/
theorem State.dutyWindow_cases {s : State} (hc : s.cfg.wf = true) :
    (s.sch.dcElapsed.toNat + 1 ≤ s.cfg.dcWindowTicks
      ∧ s.dutyWindow.sch.dcElapsed.toNat = s.sch.dcElapsed.toNat + 1 ∧ s.dutyWindow.sch.dcTx = s.sch.dcTx)
    ∨ (s.cfg.dcWindowTicks < s.sch.dcElapsed.toNat + 1
      ∧ s.dutyWindow.sch.dcElapsed.toNat = 1 ∧ s.dutyWindow.sch.dcTx = 0) := by
  have hw := Config.wf_window hc
  unfold State.dutyWindow
  split
  · exact .inr ⟨‹_›, rfl, rfl⟩
  · refine .inl ⟨by omega, ?_, rfl⟩
    show (BitVec.ofNat 16 (s.sch.dcElapsed.toNat + 1)).toNat = _
    rw [BitVec.toNat_ofNat, Nat.mod_eq_of_lt (by omega)]

/-- The slot rotation changes the slot registers, TICKCOND and the event history only (R248). -/
theorem State.slotRotate_eq (s : State) :
    s.slotRotate =
      { s with
        sch := { s.sch with slotTmr := s.slotRotate.sch.slotTmr, slot := s.slotRotate.sch.slot }
        tickCond := s.slotRotate.tickCond
        history := s.slotRotate.history } := by
  unfold State.slotRotate
  split
  · rfl
  · dsimp only
    split <;> rfl

/-- The slot rotation calls the radio at most once, to tune it (R248). -/
theorem State.slotRotate_calls (s : State) :
    s.slotRotate.history = s.history ∨ ∃ slot, s.slotRotate.history = s.history ++ [.setChannel slot] := by
  unfold State.slotRotate
  split
  · exact .inl rfl
  · dsimp only
    split
    · exact .inl rfl
    · exact .inr ⟨_, rfl⟩

theorem State.slotRotate_cond {s : State} (h : s.tickCond.toNat < 2 ^ 13) : s.slotRotate.tickCond.toNat < 2 ^ 13 := by
  unfold State.slotRotate
  split
  · exact h
  · dsimp only
    split
    · exact h
    · exact setCond_bound h (by decide)

/-- The slot registers stay in range (R56). -/
theorem State.slotRotate_range {s : State} (hc : s.cfg.wf = true) (hs : s.sch.slot.toNat < s.cfg.numSlots) :
    s.slotRotate.sch.slot.toNat < s.cfg.numSlots ∧ s.slotRotate.sch.slotTmr.toNat < s.cfg.slotTicks := by
  have h1 := Config.wf_slots hc
  unfold State.slotRotate
  split
  · refine ⟨hs, ?_⟩
    show (BitVec.ofNat 16 (s.sch.slotTmr.toNat + 1)).toNat < _
    rw [BitVec.toNat_ofNat, Nat.mod_eq_of_lt (by omega)]
    omega
  · dsimp only
    split
    · exact ⟨hs, by show (0 : Half).toNat < _; simp; omega⟩
    · refine ⟨?_, by show (0 : Half).toNat < _; simp; omega⟩
      show (BitVec.ofNat 8 ((s.sch.slot.toNat + 1) % s.cfg.numSlots)).toNat < _
      have := Nat.mod_lt (s.sch.slot.toNat + 1) (show 0 < s.cfg.numSlots by omega)
      rw [BitVec.toNat_ofNat, Nat.mod_eq_of_lt (by omega)]
      exact this

/-! ## T4: the state action -/

/-- The oracle calls a state action can make, with the states before and after it. -/
inductive ActionCalls : SchState → SchState → List Event → Prop where
  | listen (after : SchState) (clear : Bool) (rssi : Byte) (h : after = .transmitWindow → clear = true) :
      ActionCalls .listen after [.channelClear clear, .readRssi rssi]
  | silent (after : SchState) (h : after ≠ .transmitWindow) : ActionCalls .transmitWindow after []
  | keyed (after : SchState) (radio : List Byte) (ok : Bool) (h : after ≠ .transmitWindow) :
      ActionCalls .transmitWindow after [.transmit radio ok]
  | waiting (after : SchState) (h : after ≠ .transmitWindow) : ActionCalls .backoff after []

/-- Everything a state action can do to a state. -/
structure ActionEffect (s t : State) : Prop where
  same : t =
    { s with
      mem := t.mem, tickCond := t.tickCond, env := t.env, history := t.history
      sch :=
        { s.sch with
          state := t.sch.state, backoff := t.sch.backoff, lastRssi := t.sch.lastRssi, retry := t.sch.retry
          clearCnt := t.sch.clearCnt, dcTx := t.sch.dcTx, txSeq := t.sch.txSeq }
      bridge := { s.bridge with credit := t.bridge.credit }
      txPending := t.txPending, replyPending := t.replyPending, hbReq := t.hbReq }
  inputs : SameInputs s.env t.env
  bytes : ∀ st a, ¬ ((st = .txb ∧ a < s.cfg.frameLen) ∨ (st = .blk ∧ a < s.cfg.fecK)) → t.rd st a = s.rd st a
  memWf : Memory.wf s.mem → Memory.wf t.mem
  cond : s.tickCond.toNat < 2 ^ 13 → t.tickCond.toNat < 2 ^ 13
  credit : t.bridge.credit.toNat ≤ s.bridge.credit.toNat
  txPending : t.txPending = s.txPending ∨ t.txPending = none
  reply : t.replyPending = s.replyPending ∨ t.replyPending = none
  backoff : s.cfg.wf = true → (s.sch.state = .backoff → 1 ≤ s.sch.backoff.toNat) → t.sch.state = .backoff →
    1 ≤ t.sch.backoff.toNat
  charge : t.sch.dcTx = s.sch.dcTx
    ∨ (t.sch.dcTx = BitVec.ofNat 16 (s.sch.dcTx.toNat + 1)
      ∧ (s.tun.duty ≠ 0 → (s.sch.dcTx.toNat + 1) * 100 ≤ s.tun.duty.toNat * s.sch.dcElapsed.toNat))
  calls : ∃ calls, t.history = s.history ++ calls ∧ ActionCalls s.sch.state t.sch.state calls

theorem backoff_pos {c : Config} (h : c.wf = true) (netid slot retry : Nat) :
    1 ≤ (BitVec.ofNat 16 (backoffFn c netid slot retry)).toNat := by
  have := backoffFn_range h netid slot retry
  rw [BitVec.toNat_ofNat, Nat.mod_eq_of_lt (by omega)]
  exact this.1

/-- The two oracle calls of a LISTEN tick use up answers and are recorded (R15, R54). -/
theorem State.askBoth (s : State) :
    ∃ rssi env, SameInputs s.env env ∧
      s.askChannelClear.2.askRssi =
        (rssi,
          { s with
            env := env
            history := s.history ++ [Event.channelClear s.askChannelClear.1, Event.readRssi rssi] }) :=
  ⟨_, s.askChannelClear.2.askRssi.2.env, ⟨rfl, rfl, rfl⟩, by
    rw [show [Event.channelClear s.askChannelClear.1, Event.readRssi s.askChannelClear.2.askRssi.1]
      = [Event.channelClear s.askChannelClear.1] ++ [Event.readRssi s.askChannelClear.2.askRssi.1] from rfl,
      ← List.append_assoc]
    rfl⟩

/-- A LISTEN tick (R252). -/
theorem State.listen_effect {s : State} (hs : s.sch.state = .listen) : ActionEffect s s.listen := by
  obtain ⟨rssi, env, hin, e⟩ := s.askBoth
  unfold State.listen
  dsimp only
  rw [e]
  generalize s.askChannelClear.1 = clear
  dsimp only
  split
  · exact
      { same := rfl, inputs := hin, bytes := fun st a _ => State.rd_congr (by rfl) hin.2.2 st a, memWf := id
        cond := fun h => setCond_bound h (by decide), credit := le_rfl, txPending := .inl rfl, reply := .inl rfl
        backoff := fun hc _ _ => backoff_pos hc _ _ _
        charge := .inl rfl
        calls := ⟨_, rfl, hs ▸ ActionCalls.listen _ _ _ (fun h => by cases h)⟩ }
  · rename_i hb
    have hclear : clear = true := by
      simp only [channelBusy, Bool.or_eq_true, Bool.not_eq_true', not_or] at hb
      simpa using hb.1
    split
    · exact
        { same := rfl, inputs := hin, bytes := fun st a _ => State.rd_congr (by rfl) hin.2.2 st a, memWf := id
          cond := id, credit := le_rfl, txPending := .inl rfl, reply := .inl rfl
          backoff := fun _ _ h => by cases h
          charge := .inl rfl
          calls := ⟨_, rfl, hs ▸ ActionCalls.listen _ _ _ (fun _ => hclear)⟩ }
    · exact
        { same := rfl, inputs := hin, bytes := fun st a _ => State.rd_congr (by rfl) hin.2.2 st a, memWf := id
          cond := id, credit := le_rfl, txPending := .inl rfl, reply := .inl rfl
          backoff := fun _ h1 h2 => h1 h2
          charge := .inl rfl
          calls := ⟨_, rfl, hs ▸ ActionCalls.listen _ _ _ (fun _ => hclear)⟩ }

/-- The choice of a candidate (R253, R254) changes at most CREDIT, by one, and TICKCOND. -/
theorem State.chooseCandidate_cases (s : State) :
    s.chooseCandidate.2 = s
    ∨ (s.chooseCandidate.1 = none
      ∧ s.chooseCandidate.2 =
          { s with
            bridge := { s.bridge with credit := BitVec.ofNat 8 (s.bridge.credit.toNat - 1) } }.setCond
            condDataSuppressed) := by
  unfold State.chooseCandidate
  split
  · exact .inl rfl
  · split
    · exact .inl rfl
    · split
      · unfold State.dataCandidate
        split
        · exact .inr ⟨rfl, rfl⟩
        · exact .inl rfl
      · exact .inl rfl

/-- A keyed or failed transmission and the return to LISTEN, whatever memory the frame was stored in (R256, R257). -/
theorem State.afterTransmit_effect {s : State} (hs : s.sch.state = .transmitWindow) (src : Source) (radio : List Byte)
    (m : Memory) (env : Env) (ok : Bool) (hin : SameInputs s.env env)
    (hbudget : s.tun.duty ≠ 0 → (s.sch.dcTx.toNat + 1) * 100 ≤ s.tun.duty.toNat * s.sch.dcElapsed.toNat)
    (hbytes : ∀ st a, ¬ ((st = .txb ∧ a < s.cfg.frameLen) ∨ (st = .blk ∧ a < s.cfg.fecK)) →
      { s with mem := m }.rd st a = s.rd st a)
    (hwf : Memory.wf s.mem → Memory.wf m) :
    let t : State := { s with mem := m, env := env, history := s.history ++ [.transmit radio ok] }
    ActionEffect s ((if ok then t.transmitted src else t.setCond condTxFailed).setSch .listen) := by
  have hb : ∀ (u : State), u.mem = m → u.env = env → ∀ st a,
      ¬ ((st = .txb ∧ a < s.cfg.frameLen) ∨ (st = .blk ∧ a < s.cfg.fecK)) → u.rd st a = s.rd st a := by
    intro u hu he st a ha
    rw [← hbytes st a ha]
    exact State.rd_congr hu (by rw [he]; exact hin.2.2) st a
  intro t
  cases ok
  · exact
      { same := rfl, inputs := hin, bytes := hb _ rfl rfl, memWf := hwf, cond := fun h => setCond_bound h (by decide)
        credit := le_rfl, txPending := .inl rfl, reply := .inl rfl, backoff := fun _ _ h => by cases h
        charge := .inl rfl, calls := ⟨[_], rfl, hs ▸ ActionCalls.keyed _ _ _ (fun h => by cases h)⟩ }
  · cases src
    · exact
        { same := rfl, inputs := hin, bytes := hb _ rfl rfl, memWf := hwf, cond := fun h => setCond_bound h (by decide)
          credit := le_rfl, txPending := .inl rfl, reply := .inr rfl, backoff := fun _ _ h => by cases h
          charge := .inr ⟨rfl, hbudget⟩, calls := ⟨[_], rfl, hs ▸ ActionCalls.keyed _ _ _ (fun h => by cases h)⟩ }
    · exact
        { same := rfl, inputs := hin, bytes := hb _ rfl rfl, memWf := hwf, cond := fun h => setCond_bound h (by decide)
          credit := le_rfl, txPending := .inl rfl, reply := .inl rfl, backoff := fun _ _ h => by cases h
          charge := .inr ⟨rfl, hbudget⟩, calls := ⟨[_], rfl, hs ▸ ActionCalls.keyed _ _ _ (fun h => by cases h)⟩ }
    · exact
        { same := rfl, inputs := hin, bytes := hb _ rfl rfl, memWf := hwf, cond := fun h => setCond_bound h (by decide)
          credit := le_rfl, txPending := .inr rfl, reply := .inl rfl, backoff := fun _ _ h => by cases h
          charge := .inr ⟨rfl, hbudget⟩, calls := ⟨[_], rfl, hs ▸ ActionCalls.keyed _ _ _ (fun h => by cases h)⟩ }

/-- Keying the transmitter (R256, R257). -/
theorem State.keyTransmitter_effect {s : State} {k : Candidate} (hs : s.sch.state = .transmitWindow)
    (hb : s.noBudget = false) : ActionEffect s (s.keyTransmitter k) := by
  have hbudget : s.tun.duty ≠ 0 → (s.sch.dcTx.toNat + 1) * 100 ≤ s.tun.duty.toNat * s.sch.dcElapsed.toNat := by
    intro hd
    have : ¬ (s.tun.duty.toNat * s.sch.dcElapsed.toNat < (s.sch.dcTx.toNat + Config.txCost) * 100) := by
      intro hlt
      rw [State.noBudget, decide_eq_true hlt, Bool.and_true] at hb
      exact hd (by simpa using hb)
    exact not_lt.1 this
  have hr : (s.frameOf k.type k.payload).1.length = s.cfg.frameLen := frame_radio_length _ _ _ _ _ _
  have hk : (s.frameOf k.type k.payload).2.length = s.cfg.fecK := frame_block_length _ _ _ _ _ _
  have hmem : ∀ st a, ¬ ((st = .txb ∧ a < s.cfg.frameLen) ∨ (st = .blk ∧ a < s.cfg.fecK)) →
      (s.storeFrame (s.frameOf k.type k.payload).1 (s.frameOf k.type k.payload).2).rd st a = s.rd st a := by
    intro st a ha
    rw [State.rd_storeFrame, if_neg (fun h => ha (.inl ⟨h.1, by omega⟩)), if_neg (fun h => ha (.inr ⟨h.1, by omega⟩))]
  have hwf : Memory.wf s.mem →
      Memory.wf (s.storeFrame (s.frameOf k.type k.payload).1 (s.frameOf k.type k.payload).2).mem :=
    fun h => State.storeFrame_wf h _ _
  have heq := State.storeFrame_eq s (s.frameOf k.type k.payload).1 (s.frameOf k.type k.payload).2
  unfold State.keyTransmitter
  dsimp only
  revert hmem hwf heq
  generalize (s.storeFrame (s.frameOf k.type k.payload).1 (s.frameOf k.type k.payload).2) = u
  intro hmem hwf heq
  generalize u.mem = m at hwf heq
  subst heq
  exact State.afterTransmit_effect hs k.source (s.frameOf k.type k.payload).1 m _ _ ⟨rfl, rfl, rfl⟩ hbudget hmem hwf

/-- A choice that changes the state, then the return to LISTEN. -/
theorem ActionEffect.of_suppressed {s : State} (hs : s.sch.state = .transmitWindow) :
    ActionEffect s
      (({ s with
          sch := { s.sch with clearCnt := 0 }
          bridge := { s.bridge with credit := BitVec.ofNat 8 (s.bridge.credit.toNat - 1) } }.setCond
          condDataSuppressed).setSch .listen) :=
  { same := rfl, inputs := ⟨rfl, rfl, rfl⟩, bytes := fun _ _ _ => rfl, memWf := id
    cond := fun h => setCond_bound h (by decide)
    credit := by
      show (BitVec.ofNat 8 (s.bridge.credit.toNat - 1)).toNat ≤ s.bridge.credit.toNat
      have := s.bridge.credit.isLt
      rw [BitVec.toNat_ofNat, Nat.mod_eq_of_lt (by omega)]
      omega
    txPending := .inl rfl, reply := .inl rfl, backoff := fun _ _ h => by cases h
    charge := .inl rfl
    calls := ⟨[], by simp [State.setCond, State.setSch], hs ▸ ActionCalls.silent _ (fun h => by cases h)⟩ }

/-- An effect does not depend on CLEARCNT before it. -/
theorem ActionEffect.of_clearCnt {s t : State} (h : ActionEffect { s with sch := { s.sch with clearCnt := 0 } } t) :
    ActionEffect s t where
  same := by rw [h.same]
  inputs := h.inputs
  bytes := h.bytes
  memWf := h.memWf
  cond := h.cond
  credit := h.credit
  txPending := h.txPending
  reply := h.reply
  backoff := h.backoff
  charge := h.charge
  calls := h.calls

/-- A TRANSMIT_WINDOW tick (R253 to R257). -/
theorem State.transmitWindow_effect {s : State} (hs : s.sch.state = .transmitWindow) :
    ActionEffect s s.transmitWindow := by
  have hc := State.chooseCandidate_cases { s with sch := { s.sch with clearCnt := 0 } }
  unfold State.transmitWindow
  dsimp only
  revert hc
  generalize State.chooseCandidate { s with sch := { s.sch with clearCnt := 0 } } = c
  obtain ⟨cand, t⟩ := c
  intro hc
  dsimp only at hc ⊢
  rcases hc with rfl | ⟨rfl, rfl⟩
  · cases cand with
    | none =>
      exact
        { same := rfl, inputs := ⟨rfl, rfl, rfl⟩, bytes := fun _ _ _ => rfl, memWf := id, cond := id, credit := le_rfl
          txPending := .inl rfl, reply := .inl rfl, backoff := fun _ _ h => by cases h
          charge := .inl rfl
          calls := ⟨[], by simp [State.setSch], hs ▸ ActionCalls.silent _ (fun h => by cases h)⟩ }
    | some k =>
      dsimp only
      split
      · exact
          { same := rfl, inputs := ⟨rfl, rfl, rfl⟩, bytes := fun _ _ _ => rfl, memWf := id
            cond := fun h => setCond_bound h (by decide), credit := le_rfl
            txPending := .inl rfl, reply := .inl rfl, backoff := fun hc _ _ => backoff_pos hc _ _ _
            charge := .inl rfl
            calls := ⟨[], by simp [State.setCond, State.enterBackoff],
              hs ▸ ActionCalls.silent _ (fun h => by cases h)⟩ }
      · rename_i hb
        exact ActionEffect.of_clearCnt (State.keyTransmitter_effect hs (by simpa using hb))
  · exact ActionEffect.of_suppressed hs

/-- A BACKOFF tick (R259). -/
theorem State.backoffTick_effect {s : State} (hs : s.sch.state = .backoff) : ActionEffect s s.backoffTick := by
  unfold State.backoffTick
  dsimp only
  split
  · exact
      { same := rfl, inputs := ⟨rfl, rfl, rfl⟩, bytes := fun _ _ _ => rfl, memWf := id, cond := id, credit := le_rfl
        txPending := .inl rfl, reply := .inl rfl, backoff := fun _ _ h => by cases h
        charge := .inl rfl
        calls := ⟨[], by simp [State.setSch], hs ▸ ActionCalls.waiting _ (fun h => by cases h)⟩ }
  · rename_i hz
    exact
      { same := rfl, inputs := ⟨rfl, rfl, rfl⟩, bytes := fun _ _ _ => rfl, memWf := id, cond := id, credit := le_rfl
        txPending := .inl rfl, reply := .inl rfl, backoff := fun _ _ _ => Nat.one_le_iff_ne_zero.2 hz
        charge := .inl rfl
        calls := ⟨[], by simp, hs ▸ ActionCalls.waiting _ (by simp)⟩ }

/-- The state action of a tick: exactly one of the three (R241). -/
theorem State.stateAction_effect (s : State) : ActionEffect s s.stateAction := by
  unfold State.stateAction
  cases hs : s.sch.state with
  | listen => exact State.listen_effect hs
  | transmitWindow => exact State.transmitWindow_effect hs
  | backoff => exact State.backoffTick_effect hs

end Sys2Proof.Machine
end

