-- ==== Sys2Proof/Laws/Bulk.lean ====
section
/-! SUPPORT. What the rest of a tick and one micro-step of a bulk command can do (`spec/20_memory.md` R82,
`spec/44_scheduler.md` R241, R269), how a tick reaches its state action, and the small lemmas of `draw` and of the two resets. -/

namespace Sys2Proof.Machine

/-! ## Oracle answers and resets -/

@[simp] theorem draw_cons {α : Type} (x : α) (rest : List α) (free : Nat → α) (n : Nat) :
    draw (x :: rest) free n = (x, rest, n) := rfl
@[simp] theorem draw_nil {α : Type} (free : Nat → α) (n : Nat) : draw [] free n = (free n, [], n + 1) := rfl

@[simp] theorem State.softReset_cfg (s : State) : s.softReset.cfg = s.cfg := rfl
@[simp] theorem State.softReset_mem (s : State) : s.softReset.mem = s.mem := rfl
@[simp] theorem State.softReset_env (s : State) : s.softReset.env = s.env := rfl
@[simp] theorem State.softReset_port (s : State) : s.softReset.port = s.port := rfl
@[simp] theorem State.softReset_fatal (s : State) : s.softReset.fatal = false := rfl
@[simp] theorem State.softReset_bulk (s : State) : s.softReset.bulk = none := rfl
@[simp] theorem State.softReset_history (s : State) : s.softReset.history = [] := rfl
@[simp] theorem State.softReset_rd (s : State) (st : Store) (a : Nat) : s.softReset.rd st a = s.rd st a := rfl
@[simp] theorem State.hardwareReset_cfg (s : State) : s.hardwareReset.cfg = s.cfg := rfl
@[simp] theorem State.hardwareReset_mem (s : State) : s.hardwareReset.mem = [] := rfl
@[simp] theorem State.hardwareReset_fatal (s : State) : s.hardwareReset.fatal = false := rfl
@[simp] theorem State.hardwareReset_bulk (s : State) : s.hardwareReset.bulk = none := rfl
@[simp] theorem State.hardwareReset_history (s : State) : s.hardwareReset.history = [] := rfl

/-! ## One micro-step -/

/-- Everything one micro-step of a bulk command can do to a state; the bytes it stores are left to the lemmas of its
parts. -/
structure BulkEffect (s t : State) : Prop where
  same : t =
    { s with
      fg := t.fg, corr := t.corr, tickCond := t.tickCond
      cnt := ⟨s.cnt.rxOvf, t.cnt.txOvf, t.cnt.corr, t.cnt.uncorr⟩
      sch := t.sch, bridge := t.bridge, rx := t.rx
      txPending := t.txPending, replyPending := t.replyPending, hbReq := t.hbReq
      srx := ⟨s.srx.insert, t.srx.remove⟩, stx := ⟨t.stx.insert, s.stx.remove⟩
      mem := t.mem, bulk := t.bulk, env := t.env, history := t.history }
  inputs : SameInputs s.env t.env
  memWf : Memory.wf s.mem → Memory.wf t.mem
  counts : CountsUp s.cnt.txOvf t.cnt.txOvf ∧ CountsUp s.cnt.corr t.cnt.corr ∧ CountsUp s.cnt.uncorr t.cnt.uncorr
  cond : s.tickCond.toNat < 2 ^ 13 → t.tickCond.toNat < 2 ^ 13

theorem BulkEffect.refl (s : State) : BulkEffect s s :=
  ⟨rfl, ⟨rfl, rfl, rfl⟩, id, ⟨.inl rfl, .inl rfl, .inl rfl⟩, id⟩

/-- Two effects in a row, where at most one of them counts each event. -/
theorem BulkEffect.trans {s t u : State} (h : BulkEffect s t) (h' : BulkEffect t u)
    (hc : (t.cnt.txOvf = s.cnt.txOvf ∨ u.cnt.txOvf = t.cnt.txOvf) ∧ (t.cnt.corr = s.cnt.corr ∨ u.cnt.corr = t.cnt.corr)
      ∧ (t.cnt.uncorr = s.cnt.uncorr ∨ u.cnt.uncorr = t.cnt.uncorr)) : BulkEffect s u where
  same := by
    have h1 := h.same
    have h2 := h'.same
    rw [h2, h1]
  inputs := ⟨h'.inputs.1.trans h.inputs.1, h'.inputs.2.1.trans h.inputs.2.1, h'.inputs.2.2.trans h.inputs.2.2⟩
  memWf := fun w => h'.memWf (h.memWf w)
  counts := by
    have key : ∀ {a b c : Half}, CountsUp a b → CountsUp b c → (b = a ∨ c = b) → CountsUp a c := by
      rintro a b c h1 h2 (rfl | rfl)
      · exact h2
      · exact h1
    exact ⟨key h.counts.1 h'.counts.1 hc.1, key h.counts.2.1 h'.counts.2.1 hc.2.1, key h.counts.2.2 h'.counts.2.2 hc.2.2⟩
  cond := fun w => h'.cond (h.cond w)

/-- The effect is the same whatever bulk command was in progress before. -/
theorem BulkEffect.of_fields {s t : State} (same : t =
      { s with
        fg := t.fg, corr := t.corr, tickCond := t.tickCond, sch := t.sch, bridge := t.bridge, rx := t.rx
        txPending := t.txPending, replyPending := t.replyPending, hbReq := t.hbReq
        srx := ⟨s.srx.insert, t.srx.remove⟩, stx := ⟨t.stx.insert, s.stx.remove⟩
        mem := t.mem, bulk := t.bulk, env := t.env, history := t.history })
    (inputs : SameInputs s.env t.env) (memWf : Memory.wf s.mem → Memory.wf t.mem)
    (cond : s.tickCond.toNat < 2 ^ 13 → t.tickCond.toNat < 2 ^ 13) : BulkEffect s t where
  same := by rw [same]
  inputs := inputs
  memWf := memWf
  counts := by rw [same]; exact ⟨.inl rfl, .inl rfl, .inl rfl⟩
  cond := cond

theorem BulkEffect.of_receive {s t : State} (h : ReceiveEffect s t) : BulkEffect s t where
  same := by
    have h1 := h.same
    have h2 := h.overflows
    rw [← h2.1, h1]
  inputs := h.inputs
  memWf := h.memWf
  counts := ⟨.inl h.overflows.2, h.counts.1, h.counts.2⟩
  cond := h.cond

theorem BulkEffect.of_action {s t : State} (h : ActionEffect s t) : BulkEffect s t :=
  .of_fields (by rw [h.same]) h.inputs h.memWf h.cond

theorem State.dutyWindow_effect (s : State) : BulkEffect s s.dutyWindow := by
  unfold State.dutyWindow
  split <;> exact .of_fields rfl ⟨rfl, rfl, rfl⟩ id id

theorem State.slotRotate_effect (s : State) : BulkEffect s s.slotRotate := by
  have hc := @State.slotRotate_cond s
  have h := State.slotRotate_eq s
  exact .of_fields (by rw [h]) (by rw [h]; exact ⟨rfl, rfl, rfl⟩) (by rw [h]; exact id) hc

/-- T3 and T4 keep every statistics counter (R247, R248, R252 to R259). -/
theorem State.timeAndState_cnt (s : State) : s.timeAndState.cnt = s.cnt := by
  unfold State.timeAndState
  rw [(State.stateAction_effect _).same]
  show s.dutyWindow.slotRotate.cnt = _
  rw [State.slotRotate_eq]
  show s.dutyWindow.cnt = _
  rw [State.dutyWindow_eq]

/-- T3 and T4 of a tick. -/
theorem State.timeAndState_effect (s : State) : BulkEffect s s.timeAndState := by
  have h1 : s.dutyWindow.cnt = s.cnt := by rw [State.dutyWindow_eq]
  have h2 : s.dutyWindow.slotRotate.cnt = s.cnt := by
    rw [State.slotRotate_eq]
    exact h1
  exact ((s.dutyWindow_effect.trans (State.slotRotate_effect _)
    ⟨.inl (by rw [h1]), .inl (by rw [h1]), .inl (by rw [h1])⟩).trans (.of_action (State.stateAction_effect _))
    ⟨.inl (by rw [h2]), .inl (by rw [h2]), .inl (by rw [h2])⟩)

/-- The end of a tick (R241). -/
theorem State.finishTick_effect (s : State) : BulkEffect s s.finishTick :=
  s.timeAndState_effect.trans (.of_fields rfl ⟨rfl, rfl, rfl⟩ id id) ⟨.inr rfl, .inr rfl, .inr rfl⟩

theorem State.finishTick_cnt (s : State) : s.finishTick.cnt = s.cnt := s.timeAndState_cnt

/-- The end of a tick completes it: ERR becomes 0, RESULT is as it was, no bulk command is in progress (R241). -/
theorem State.finishTick_done (s : State) : s.finishTick.fg = ⟨s.fg.result, 0⟩ ∧ s.finishTick.bulk = none := by
  refine ⟨?_, rfl⟩
  show PortRegs.mk s.timeAndState.fg.result 0 = _
  congr 1
  unfold State.timeAndState
  rw [(State.stateAction_effect _).same]
  show s.dutyWindow.slotRotate.fg.result = _
  rw [State.slotRotate_eq]
  show s.dutyWindow.fg.result = _
  rw [State.dutyWindow_eq]

theorem State.finishBulk_effect (s : State) (result : Half) (err : Byte) : BulkEffect s (s.finishBulk result err) :=
  .of_fields rfl ⟨rfl, rfl, rfl⟩ id id

theorem State.suspend_effect (s : State) (b : Bulk) : BulkEffect s (s.suspend b) :=
  .of_fields rfl ⟨rfl, rfl, rfl⟩ id id

theorem State.setCondIf_effect (s : State) (p : Bool) {b : Nat} (hb : b < 13) : BulkEffect s (s.setCondIf p b) := by
  cases p
  · exact .refl s
  · exact .of_receive (s.setCond_effect hb)

/-- The end of a push loop counts nothing (R160, R245). -/
theorem State.endPush_effect (s : State) (inTick full : Bool) (count : Nat) :
    BulkEffect s (s.endPush inTick full count) ∧ (s.endPush inTick full count).cnt = s.cnt := by
  unfold State.endPush
  cases inTick
  · exact ⟨s.finishBulk_effect _ _, rfl⟩
  · have h1 : ((s.setCond condRxDelivered).setCondIf full condRxOverflow).cnt = s.cnt := by simp
    exact ⟨((BulkEffect.of_receive (s.setCond_effect (b := condRxDelivered) (by decide))).trans
      (State.setCondIf_effect _ full (b := condRxOverflow) (by decide)) ⟨.inl rfl, .inl rfl, .inl rfl⟩).trans
      (State.finishTick_effect _) ⟨.inl (by rw [h1]), .inl (by rw [h1]), .inl (by rw [h1])⟩,
      (State.finishTick_cnt _).trans h1⟩

theorem State.ringPut_stx_effect (s : State) (b : Byte) : BulkEffect s (s.ringPut .stx b) :=
  .of_fields rfl ⟨rfl, rfl, rfl⟩ (fun h => State.ringPut_wf h .stx b) id

theorem State.ringDrop_srx_effect (s : State) : BulkEffect s (s.ringDrop .srx) :=
  .of_fields rfl ⟨rfl, rfl, rfl⟩ id id

theorem State.countOverflow_stx_effect (s : State) : BulkEffect s (s.countOverflow .stx) :=
  ⟨rfl, ⟨rfl, rfl, rfl⟩, id, ⟨.inr rfl, .inl rfl, .inl rfl⟩, id⟩

/-- One micro-step of the push loop keeps the two frame counters (R160). -/
theorem State.pushStep_effect (s : State) (inTick : Bool) (rest : List Byte) (count : Nat) :
    BulkEffect s (s.pushStep inTick rest count)
    ∧ (s.pushStep inTick rest count).cnt.corr = s.cnt.corr ∧ (s.pushStep inTick rest count).cnt.uncorr = s.cnt.uncorr := by
  unfold State.pushStep
  cases rest with
  | nil =>
    obtain ⟨h, hc⟩ := s.endPush_effect inTick false count
    exact ⟨h, by rw [hc], by rw [hc]⟩
  | cons b more =>
    dsimp only
    rcases s.tryPush_cases .stx b with ⟨-, e⟩ | ⟨-, e⟩ <;> rw [e] <;> dsimp only
    · obtain ⟨h, hc⟩ := (s.countOverflow .stx).endPush_effect inTick true count
      exact ⟨s.countOverflow_stx_effect.trans h ⟨.inr (by rw [hc]), .inr (by rw [hc]), .inr (by rw [hc])⟩, by rw [hc]; rfl,
        by rw [hc]; rfl⟩
    · split
      · obtain ⟨h, hc⟩ := (s.ringPut .stx b).endPush_effect inTick false (count + 1)
        exact ⟨(s.ringPut_stx_effect b).trans h ⟨.inl rfl, .inl rfl, .inl rfl⟩, by rw [hc]; rfl, by rw [hc]; rfl⟩
      · exact ⟨(s.ringPut_stx_effect b).trans (State.suspend_effect _ _) ⟨.inl rfl, .inl rfl, .inl rfl⟩, rfl, rfl⟩

/-- One micro-step of the pop loop counts nothing (R161). -/
theorem State.popStep_effect (s : State) (max count : Nat) : BulkEffect s (s.popStep max count) := by
  unfold State.popStep
  split
  · exact s.finishBulk_effect _ _
  · rcases s.tryPop_cases .srx with ⟨-, e⟩ | ⟨-, e⟩ <;> rw [e] <;> dsimp only
    · exact s.finishBulk_effect _ _
    · split <;> exact .of_fields rfl ⟨rfl, rfl, rfl⟩ (fun h => Memory.store_wf h _ _) id

/-- T2 to T4 of a tick. -/
theorem State.tickReceive_effect (s : State) (popped : Bool) : BulkEffect s (s.tickReceive popped) := by
  have he := s.receiveStep_effect
  unfold State.tickReceive
  generalize s.receiveStep = rs at *
  obtain ⟨d, t⟩ := rs
  have ho : t.cnt.txOvf = s.cnt.txOvf := he.overflows.2
  have hr : BulkEffect s t := .of_receive he
  cases d with
  | none =>
    have hc := t.finishTick_cnt
    exact hr.trans t.finishTick_effect ⟨.inr (by rw [hc]), .inr (by rw [hc]), .inr (by rw [hc])⟩
  | some p =>
    dsimp only
    split
    · exact hr.trans (t.suspend_effect _) ⟨.inr rfl, .inr rfl, .inr rfl⟩
    · obtain ⟨h, h1, h2⟩ := t.pushStep_effect true p 0
      exact hr.trans h ⟨.inl ho, .inr h1, .inr h2⟩

/-- The handover and what follows it (R302, R307, R241). -/
theorem State.endDrain_effect (s : State) (inTick popped : Bool) : BulkEffect s (s.endDrain inTick popped) := by
  have hh : BulkEffect s (if s.handoverReady then s.handover else s)
      ∧ (if s.handoverReady then s.handover else s).cnt = s.cnt := by
    split
    · exact ⟨.of_fields rfl ⟨rfl, rfl, rfl⟩ id id, rfl⟩
    · exact ⟨.refl s, rfl⟩
  unfold State.endDrain
  dsimp only
  generalize (if s.handoverReady then s.handover else s) = t at *
  obtain ⟨h, hc⟩ := hh
  cases inTick
  · exact h.trans (t.finishBulk_effect _ _) ⟨.inr rfl, .inr rfl, .inr rfl⟩
  · have h1 : (t.setCondIf s.handoverReady condHandover).cnt = s.cnt := by rw [State.setCondIf_cnt, hc]
    exact (h.trans (t.setCondIf_effect _ (by decide)) ⟨.inl (by rw [hc]), .inl (by rw [hc]), .inl (by rw [hc])⟩).trans
      (State.tickReceive_effect _ popped) ⟨.inl (by rw [h1]), .inl (by rw [h1]), .inl (by rw [h1])⟩

/-- One micro-step of the drain loop (R301). -/
theorem State.drainStep_effect (s : State) (inTick : Bool) : BulkEffect s (s.drainStep inTick) := by
  unfold State.drainStep
  split
  · exact s.endDrain_effect _ _
  · rcases s.tryPop_cases .srx with ⟨-, e⟩ | ⟨-, e⟩ <;> rw [e] <;> dsimp only
    · exact s.endDrain_effect _ _
    · have h : ∀ b, BulkEffect s ((s.ringDrop .srx).appendBuild b) :=
        fun b => .of_fields rfl ⟨rfl, rfl, rfl⟩ (fun h => Memory.store_wf h _ _) id
      split
      · exact (h _).trans (State.endDrain_effect _ _ _) ⟨.inl rfl, .inl rfl, .inl rfl⟩
      · exact (h _).trans (State.suspend_effect _ _) ⟨.inl rfl, .inl rfl, .inl rfl⟩

/-- One micro-step of the bulk command in progress (R82). -/
theorem State.microStep_effect (s : State) : BulkEffect s s.microStep := by
  unfold State.microStep
  cases s.bulk with
  | none => exact .refl s
  | some b =>
    cases b with
    | push inTick rest count => exact (s.pushStep_effect inTick rest count).1
    | pop max count => exact s.popStep_effect max count
    | drain inTick => exact s.drainStep_effect inTick

/-! ## How a tick reaches its state action -/

/-- What T1 and T2 of a tick leave as it was: the scheduler and what its state action reads, but for the pending slots
that a handover and a reply fill. -/
structure SameSched (s t : State) : Prop where
  cfg : t.cfg = s.cfg
  tun : t.tun = s.tun
  sch : t.sch = s.sch
  credit : t.bridge.credit = s.bridge.credit
  hbReq : t.hbReq = s.hbReq
  channelClear : t.env.answers.channelClear = s.env.answers.channelClear
  rssi : t.env.answers.rssi = s.env.answers.rssi
  transmit : t.env.answers.transmit = s.env.answers.transmit
  result : t.fg.result = s.fg.result

theorem SameSched.trans {s t u : State} (h : SameSched s t) (h' : SameSched t u) : SameSched s u :=
  ⟨h'.cfg.trans h.cfg, h'.tun.trans h.tun, h'.sch.trans h.sch, h'.credit.trans h.credit, h'.hbReq.trans h.hbReq,
    h'.channelClear.trans h.channelClear, h'.rssi.trans h.rssi, h'.transmit.trans h.transmit, h'.result.trans h.result⟩

theorem SameSched.setCondIf (s : State) (p : Bool) (b : Nat) : SameSched s (s.setCondIf p b) := by
  cases p <;> exact ⟨rfl, rfl, rfl, rfl, rfl, rfl, rfl, rfl, rfl⟩

theorem SameSched.writeBytes (s : State) (st : Store) (a : Nat) (bs : List Byte) : SameSched s (s.writeBytes st a bs) := by
  rw [State.writeBytes_eq]
  exact ⟨rfl, rfl, rfl, rfl, rfl, rfl, rfl, rfl, rfl⟩

/-- The receive step leaves the scheduler alone (R243 to R246). -/
theorem State.receiveStep_sched (s : State) : SameSched s s.receiveStep.2 := by
  have stored : ∀ (t : State) (d : Deframed), SameSched t (t.storeDeframed d) := fun t d => by
    rw [State.storeDeframed_eq]
    exact ⟨rfl, rfl, rfl, rfl, rfl, rfl, rfl, rfl, rfl⟩
  have remote : ∀ (t : State) (p : List Byte), SameSched t (t.remoteAt p) := fun t p => by
    unfold State.remoteAt
    dsimp only
    split <;> exact ⟨rfl, rfl, rfl, rfl, rfl, rfl, rfl, rfl, rfl⟩
  have framed : ∀ (t : State) (radio : List Byte), SameSched t (t.receiveFrame radio).2 := fun t radio => by
    unfold State.receiveFrame
    split
    · exact ⟨rfl, rfl, rfl, rfl, rfl, rfl, rfl, rfl, rfl⟩
    · exact ⟨rfl, rfl, rfl, rfl, rfl, rfl, rfl, rfl, rfl⟩
    · rename_i d _
      have counted : ∀ u : State,
          SameSched u (if 0 < d.corrected then { u with cnt := { u.cnt with corr := satInc u.cnt.corr } } else u) :=
        fun u => by split <;> exact ⟨rfl, rfl, rfl, rfl, rfl, rfl, rfl, rfl, rfl⟩
      have h := (stored t d).trans (counted (t.storeDeframed d))
      unfold State.acceptPacket
      dsimp only
      split
      · exact h
      · split
        · exact h.trans (remote _ _)
        · exact h.trans (.setCondIf _ true _)
  have asked : SameSched s s.askReceive.2 := ⟨rfl, rfl, rfl, rfl, rfl, rfl, rfl, rfl, rfl⟩
  unfold State.receiveStep
  dsimp only
  split
  · exact asked
  · rename_i radio _
    have h := asked.trans (.setCondIf _ true condRxFrame)
    split
    · exact h.trans (.setCondIf _ true _)
    · have h := h.trans (.writeBytes _ .rxb 0 radio)
      split
      · exact h.trans (.setCondIf _ true _)
      · exact h.trans (framed _ _)

/-- What one step of a tick does with the scheduler: nothing, or it is the last one, T3 and T4 (R241). -/
def TickStep (s t : State) : Prop := t.sch = s.sch ∨ ∃ w, SameSched s w ∧ t = w.finishTick

theorem SameSched.tickStep {s t u : State} (h : SameSched s t) (h' : TickStep t u) : TickStep s u := by
  rcases h' with h' | ⟨w, hw, rfl⟩
  · exact .inl (h'.trans h.sch)
  · exact .inr ⟨w, h.trans hw, rfl⟩

theorem State.endPush_tick (s : State) (full : Bool) (count : Nat) : TickStep s (s.endPush true full count) :=
  .inr ⟨_, (SameSched.setCondIf s true condRxDelivered).trans (.setCondIf _ full condRxOverflow), rfl⟩

theorem State.pushStep_tick (s : State) (rest : List Byte) (count : Nat) : TickStep s (s.pushStep true rest count) := by
  unfold State.pushStep
  cases rest with
  | nil => exact s.endPush_tick _ _
  | cons b more =>
    have put : SameSched s (s.ringPut .stx b) := ⟨rfl, rfl, rfl, rfl, rfl, rfl, rfl, rfl, rfl⟩
    dsimp only
    rcases s.tryPush_cases .stx b with ⟨-, e⟩ | ⟨-, e⟩ <;> rw [e] <;> dsimp only
    · have h : SameSched s (s.countOverflow .stx) := ⟨rfl, rfl, rfl, rfl, rfl, rfl, rfl, rfl, rfl⟩
      exact h.tickStep (State.endPush_tick _ _ _)
    · split
      · exact put.tickStep (State.endPush_tick _ _ _)
      · exact .inl rfl

theorem State.tickReceive_tick (s : State) (popped : Bool) : TickStep s (s.tickReceive popped) := by
  have h := s.receiveStep_sched
  unfold State.tickReceive
  generalize s.receiveStep = rs at *
  obtain ⟨d, t⟩ := rs
  refine h.tickStep (t := t) ?_
  cases d with
  | none => exact .inr ⟨t, ⟨rfl, rfl, rfl, rfl, rfl, rfl, rfl, rfl, rfl⟩, rfl⟩
  | some p =>
    dsimp only
    split
    · exact .inl rfl
    · exact t.pushStep_tick p 0

theorem State.endDrain_tick (s : State) (popped : Bool) : TickStep s (s.endDrain true popped) := by
  have h : SameSched s (if s.handoverReady then s.handover else s) := by
    split <;> exact ⟨rfl, rfl, rfl, rfl, rfl, rfl, rfl, rfl, rfl⟩
  exact (h.trans (.setCondIf _ s.handoverReady condHandover)).tickStep (State.tickReceive_tick _ popped)

theorem State.drainStep_tick (s : State) : TickStep s (s.drainStep true) := by
  unfold State.drainStep
  split
  · exact s.endDrain_tick _
  · rcases s.tryPop_cases .srx with ⟨-, e⟩ | ⟨-, e⟩ <;> rw [e] <;> dsimp only
    · exact s.endDrain_tick _
    · have h : ∀ b, SameSched s ((s.ringDrop .srx).appendBuild b) :=
        fun _ => ⟨rfl, rfl, rfl, rfl, rfl, rfl, rfl, rfl, rfl⟩
      split
      · exact (h _).tickStep (State.endDrain_tick _ _)
      · exact .inl rfl

end Sys2Proof.Machine
end

