-- ==== Sys2Proof/Laws/Decode.lean ====
section
/-! SUPPORT. The fields of an encoded word (`spec/30_encoding.md` R101, R102): each field of a format gives back what the
format was built from. -/

namespace Sys2Proof

/-- An opcode is a byte. -/
theorem Instr.opcode_lt (i : Instr) : i.opcode < 256 := by
  cases i <;> simp only [Instr.opcode] <;> decide

theorem formatA_toNat {op a b c : Nat} (hop : op < 256) (ha : a < 256) (hb : b < 256) (hc : c < 256) :
    (formatA op a b c).toNat = op * 2 ^ 24 + a * 2 ^ 16 + b * 2 ^ 8 + c := by
  unfold formatA
  rw [BitVec.toNat_ofNat]
  omega

theorem formatB_toNat {op n v idx : Nat} (hop : op < 256) (hn : n < 256) (hv : v < 2) (hi : idx < 2048) :
    (formatB op n v idx).toNat = op * 2 ^ 24 + n * 2 ^ 16 + v * 2 ^ 15 + idx := by
  unfold formatB
  rw [BitVec.toNat_ofNat]
  omega

theorem formatI_toNat {op r imm : Nat} (hop : op < 256) (hr : r < 256) (hi : imm < 65536) :
    (formatI op r imm).toNat = op * 2 ^ 24 + r * 2 ^ 16 + imm := by
  unfold formatI
  rw [BitVec.toNat_ofNat]
  omega

/-- The fields of a word of format A. -/
theorem formatA_fields {op a b c : Nat} (hop : op < 256) (ha : a < 256) (hb : b < 256) (hc : c < 256) :
    opField (formatA op a b c) = op ∧ aField (formatA op a b c) = a ∧ bField (formatA op a b c) = b
    ∧ cField (formatA op a b c) = c ∧ immField (formatA op a b c) = b * 2 ^ 8 + c
    ∧ bitField (formatA op a b c) 23 0 = a * 2 ^ 16 + b * 2 ^ 8 + c := by
  simp only [opField, aField, bField, cField, immField, bitField, formatA_toNat hop ha hb hc]
  omega

/-- The fields of a word of format B. -/
theorem formatB_fields {op n v idx : Nat} (hop : op < 256) (hn : n < 256) (hv : v < 2) (hi : idx < 2048) :
    opField (formatB op n v idx) = op ∧ aField (formatB op n v idx) = n ∧ vField (formatB op n v idx) = v
    ∧ gapField (formatB op n v idx) = 0 ∧ idxField (formatB op n v idx) = idx := by
  simp only [opField, aField, vField, gapField, idxField, bitField, formatB_toNat hop hn hv hi]
  omega

/-- The fields of a word of format I. -/
theorem formatI_fields {op r imm : Nat} (hop : op < 256) (hr : r < 256) (hi : imm < 65536) :
    opField (formatI op r imm) = op ∧ aField (formatI op r imm) = r ∧ immField (formatI op r imm) = imm := by
  simp only [opField, aField, immField, bitField, formatI_toNat hop hr hi]
  omega

/-- Every field lies within its width. -/
theorem field_bounds (w : Word) :
    opField w < 256 ∧ aField w < 256 ∧ bField w < 256 ∧ cField w < 256 ∧ vField w < 2 ∧ gapField w < 16
    ∧ idxField w < 2048 ∧ immField w < 65536 := by
  simp only [opField, aField, bField, cField, vField, gapField, idxField, immField, bitField]
  omega

/-- A word is its four bytes. -/
theorem word_eq_formatA (w : Word) : w = formatA (opField w) (aField w) (bField w) (cField w) := by
  have h := field_bounds w
  apply BitVec.eq_of_toNat_eq
  rw [formatA_toNat h.1 h.2.1 h.2.2.1 h.2.2.2.1]
  have := w.isLt
  simp only [opField, aField, bField, cField, bitField]
  omega

/-- The low half of a word is its bytes `b` and `c`. -/
theorem immField_eq (w : Word) : immField w = bField w * 2 ^ 8 + cField w := by
  simp only [immField, bField, cField, bitField]
  omega

/-- The low half of a word is `v`, the gap of format B, and `idx`. -/
theorem immField_eq_formatB (w : Word) : immField w = vField w * 2 ^ 15 + gapField w * 2 ^ 11 + idxField w := by
  simp only [immField, vField, gapField, idxField, bitField]
  omega

/-- Bits 23:0 are the bytes `a`, `b` and `c`. -/
theorem bitField_23_0 (w : Word) : bitField w 23 0 = aField w * 2 ^ 16 + bField w * 2 ^ 8 + cField w := by
  simp only [aField, bField, cField, bitField]
  omega

/-- A word in which nothing must be zero is accepted. -/
@[simp] theorem zeroOr_zero (i : Instr) : zeroOr 0 i = .ok i := rfl

/-- What `zeroOr` accepts. -/
theorem zeroOr_eq_ok {mbz : Nat} {i j : Instr} : zeroOr mbz i = .ok j ↔ mbz = 0 ∧ i = j := by
  unfold zeroOr
  split
  · rename_i h
    simp [h]
  · rename_i h
    simp [h]

/-- What `zeroOr` refuses. -/
theorem zeroOr_eq_error {mbz : Nat} {i : Instr} {e : DecodeError} : zeroOr mbz i = .error e ↔ mbz ≠ 0 ∧ e = .mustBeZero := by
  unfold zeroOr
  split
  · rename_i h
    simp [h]
  · rename_i h
    simp [h, eq_comm]

end Sys2Proof
end

