-- ==== Sys2Proof/Laws/Gate.lean ====
section
/-! SUPPORT. The checks every command passes (`spec/30_encoding.md` R104), raising an error (`spec/60_exceptions.md` R343),
and that every command answers a next state. -/

namespace Sys2Proof.Machine

/-! ## Raising -/

/-- An error other than InvalidBlockSize changes ERR of its port and nothing else (R343). -/
theorem State.raise_eq_onlyErr (s : State) {e : ErrCode} (h : e ≠ .invalidBlockSize) :
    s.raise e = onlyErr s e.code := by
  have hf : e.isFatal = false := by cases e <;> first | rfl | exact absurd rfl h
  unfold State.raise State.setErr onlyErr
  rw [hf, Bool.or_false]
  cases hp : s.port <;> simp [State.setRegs, State.regs]

/-- InvalidBlockSize changes ERR of its port and sets FATAL (R336, R344). -/
theorem State.raise_invalidBlockSize (s : State) :
    s.raise .invalidBlockSize = { onlyErr s 6 with fatal := true } := by
  unfold State.raise State.setErr onlyErr
  simp [ErrCode.isFatal, ErrCode.code, State.setRegs, State.regs]

theorem onlyErr_fg {s : State} (h : s.port = .fg) (code : Byte) :
    onlyErr s code = { s with fg := { s.fg with err := code } } := by
  simp [onlyErr, h, State.setRegs, State.regs]

theorem State.done_fg {s : State} (h : s.port = .fg) : s.done = { s with fg := { s.fg with err := 0 } } := by
  simp [State.done, State.setErr, h, State.setRegs, State.regs]

theorem State.answer_fg {s : State} (h : s.port = .fg) (v : Half) : s.answer v = { s with fg := ⟨v, 0⟩ } := by
  simp [State.answer, h, State.setRegs]

/-! ## The gate -/

/-- A command that passes both checks runs its own Operation (R104). -/
theorem gate_accepted {i : Instr} {s : State} (h : Accepted i s) (op : State → State) : gate i op s = .next (op s) := by
  obtain ⟨hp, hf⟩ := h
  unfold gate
  rw [if_neg (by simp [hp]), if_neg]
  rintro ⟨h1, h2⟩
  rcases hf with hf | hf
  · simp [hf] at h1
  · simp [hf] at h2

/-- A command on the wrong port is a RoleViolation, before every other check (R339). -/
theorem gate_violation {i : Instr} {s : State} (h : permitted i s.port = false) (op : State → State) :
    gate i op s = .next (onlyErr s 9) := by
  unfold gate
  rw [if_pos h, State.raise_eq_onlyErr _ (by decide)]
  rfl

/-- While FATAL is set a permitted command that is not exempt is refused (R345). -/
theorem gate_refused {i : Instr} {s : State} (hp : permitted i s.port = true) (hf : s.fatal = true)
    (he : exemptWhenFatal i = false) (op : State → State) : gate i op s = .next (onlyErr s 10) := by
  unfold gate
  rw [if_neg (by simp [hp]), if_pos ⟨hf, he⟩, State.raise_eq_onlyErr _ (by decide)]
  rfl

/-- What a gate can answer, case by case. -/
theorem gate_cases {i : Instr} {op : State → State} {s t : State} (h : gate i op s = .next t) :
    (permitted i s.port = false ∧ t = onlyErr s 9)
    ∨ (permitted i s.port = true ∧ s.fatal = true ∧ exemptWhenFatal i = false ∧ t = onlyErr s 10)
    ∨ (Accepted i s ∧ t = op s) := by
  by_cases hp : permitted i s.port = true
  · by_cases hf : s.fatal = true ∧ exemptWhenFatal i = false
    · rw [gate_refused hp hf.1 hf.2] at h
      injection h with h
      exact .inr (.inl ⟨hp, hf.1, hf.2, h.symm⟩)
    · have ha : Accepted i s := ⟨hp, by
        cases h1 : s.fatal
        · exact .inl rfl
        · cases h2 : exemptWhenFatal i
          · exact absurd ⟨h1, h2⟩ hf
          · exact .inr rfl⟩
      rw [gate_accepted ha] at h
      injection h with h
      exact .inr (.inr ⟨ha, h.symm⟩)
  · have hp' : permitted i s.port = false := by simpa using hp
    rw [gate_violation hp'] at h
    injection h with h
    exact .inl ⟨hp', h.symm⟩

/-- A command that may run on FGCMD runs its own Operation there while FATAL is clear. -/
theorem FgReady.accepted {s : State} (h : FgReady s) {i : Instr} (hi : permitted i .fg = true) : Accepted i s :=
  ⟨by rw [h.1]; exact hi, .inl h.2⟩

/-- Every meaning is the shared gate in front of an Operation of its own (R104). -/
theorem exec_gated (i : Instr) : ∃ op : State → State, ∀ s, exec i s = gate i op s := by
  cases i <;> exact ⟨_, fun _ => rfl⟩

/-- Every command answers a next state (R14). -/
theorem exec_next (i : Instr) (s : State) : ∃ t, exec i s = .next t := by
  obtain ⟨op, h⟩ := exec_gated i
  exact ⟨_, h s⟩

/-- A command on a port that may not run it (R339). -/
theorem exec_violation {i : Instr} {s : State} (h : permitted i s.port = false) : exec i s = .next (onlyErr s 9) := by
  obtain ⟨op, hop⟩ := exec_gated i
  rw [hop, gate_violation h]

/-- A permitted command refused while FATAL is set (R345). -/
theorem exec_refused {i : Instr} {s : State} (hp : permitted i s.port = true) (hf : s.fatal = true)
    (he : exemptWhenFatal i = false) : exec i s = .next (onlyErr s 10) := by
  obtain ⟨op, hop⟩ := exec_gated i
  rw [hop, gate_refused hp hf he]

end Sys2Proof.Machine
end

