-- ==== Sys2Proof/Laws/PerInstr.lean ====
section
/-! SUPPORT. One lemma per command: the opcode field of its word is its opcode of `spec/30_encoding.md` R106. -/

namespace Sys2Proof.Laws.EncodedOpcode

/-- The opcode field of the word of a well-formed command is the command's opcode. -/
def Statement (i : Instr) : Prop := i.wellFormed = true → opField (encode i) = i.opcode

theorem nop : Statement .nop := by
  intro _
  exact (formatA_fields (Instr.opcode_lt _) (by decide) (by decide) (by decide)).1

theorem memRd (sp : Nat) (addr : Nat) : Statement (.memRd sp addr) := by
  intro h
  have h1 := of_decide_eq_true (Bool.and_eq_true_iff.mp h).1
  have h2 := of_decide_eq_true (Bool.and_eq_true_iff.mp h).2
  exact (formatA_fields (Instr.opcode_lt _) h1 h2 (by decide)).1

theorem memWr (sp : Nat) (addr : Nat) (val : Byte) : Statement (.memWr sp addr val) := by
  intro h
  have h1 := of_decide_eq_true (Bool.and_eq_true_iff.mp h).1
  have h2 := of_decide_eq_true (Bool.and_eq_true_iff.mp h).2
  exact (formatA_fields (Instr.opcode_lt _) h1 h2 val.isLt).1

theorem cfgWr (r : Nat) (imm : Half) : Statement (.cfgWr r imm) := by
  intro h
  have h1 := of_decide_eq_true h
  exact (formatI_fields (Instr.opcode_lt _) h1 imm.isLt).1

theorem cfgRd (r : Nat) : Statement (.cfgRd r) := by
  intro h
  have h1 := of_decide_eq_true h
  exact (formatI_fields (Instr.opcode_lt _) h1 (by decide)).1

theorem ctlReset : Statement .ctlReset := by
  intro _
  exact (formatA_fields (Instr.opcode_lt _) (by decide) (by decide) (by decide)).1

theorem ilvGetbit (n : Nat) (idx : Nat) : Statement (.ilvGetbit n idx) := by
  intro h
  have h1 := of_decide_eq_true (Bool.and_eq_true_iff.mp h).1
  have h2 := of_decide_eq_true (Bool.and_eq_true_iff.mp h).2
  exact (formatB_fields (Instr.opcode_lt _) h1 (by decide) h2).1

theorem ilvSetbit (n : Nat) (v : Bool) (idx : Nat) : Statement (.ilvSetbit n v idx) := by
  intro h
  have h1 := of_decide_eq_true (Bool.and_eq_true_iff.mp h).1
  have h2 := of_decide_eq_true (Bool.and_eq_true_iff.mp h).2
  exact (formatB_fields (Instr.opcode_lt _) h1 v.toNat_lt h2).1

theorem ilvGetbyte (n : Nat) (k : Nat) : Statement (.ilvGetbyte n k) := by
  intro h
  have h1 := of_decide_eq_true (Bool.and_eq_true_iff.mp h).1
  have h2 := of_decide_eq_true (Bool.and_eq_true_iff.mp h).2
  exact (formatA_fields (Instr.opcode_lt _) h1 h2 (by decide)).1

theorem ilvSetbyte (n : Nat) (k : Nat) (val : Byte) : Statement (.ilvSetbyte n k val) := by
  intro h
  have h1 := of_decide_eq_true (Bool.and_eq_true_iff.mp h).1
  have h2 := of_decide_eq_true (Bool.and_eq_true_iff.mp h).2
  exact (formatA_fields (Instr.opcode_lt _) h1 h2 val.isLt).1

theorem ilvPhys (n : Nat) (idx : Nat) : Statement (.ilvPhys n idx) := by
  intro h
  have h1 := of_decide_eq_true (Bool.and_eq_true_iff.mp h).1
  have h2 := of_decide_eq_true (Bool.and_eq_true_iff.mp h).2
  exact (formatB_fields (Instr.opcode_lt _) h1 (by decide) h2).1

theorem frmFrame (type : Byte) (len : Nat) : Statement (.frmFrame type len) := by
  intro h
  have h1 := of_decide_eq_true h
  exact (formatA_fields (Instr.opcode_lt _) type.isLt h1 (by decide)).1

theorem frmDeframe : Statement .frmDeframe := by
  intro _
  exact (formatA_fields (Instr.opcode_lt _) (by decide) (by decide) (by decide)).1

theorem schTick : Statement .schTick := by
  intro _
  exact (formatA_fields (Instr.opcode_lt _) (by decide) (by decide) (by decide)).1

theorem schHbreq : Statement .schHbreq := by
  intro _
  exact (formatA_fields (Instr.opcode_lt _) (by decide) (by decide) (by decide)).1

theorem schHbclr : Statement .schHbclr := by
  intro _
  exact (formatA_fields (Instr.opcode_lt _) (by decide) (by decide) (by decide)).1

theorem schSubmit (type : Byte) (len : Nat) : Statement (.schSubmit type len) := by
  intro h
  have h1 := of_decide_eq_true h
  exact (formatA_fields (Instr.opcode_lt _) type.isLt h1 (by decide)).1

theorem schRpclr : Statement .schRpclr := by
  intro _
  exact (formatA_fields (Instr.opcode_lt _) (by decide) (by decide) (by decide)).1

theorem rbPush (ring : Nat) (byte : Byte) : Statement (.rbPush ring byte) := by
  intro h
  have h1 := of_decide_eq_true h
  exact (formatA_fields (Instr.opcode_lt _) h1 (by decide) byte.isLt).1

theorem rbPop (ring : Nat) : Statement (.rbPop ring) := by
  intro h
  have h1 := of_decide_eq_true h
  exact (formatA_fields (Instr.opcode_lt _) h1 (by decide) (by decide)).1

theorem rbPeek (ring : Nat) (offset : Nat) : Statement (.rbPeek ring offset) := by
  intro h
  have h1 := of_decide_eq_true (Bool.and_eq_true_iff.mp h).1
  have h2 := of_decide_eq_true (Bool.and_eq_true_iff.mp h).2
  exact (formatA_fields (Instr.opcode_lt _) h1 h2 (by decide)).1

theorem rbFree (ring : Nat) : Statement (.rbFree ring) := by
  intro h
  have h1 := of_decide_eq_true h
  exact (formatA_fields (Instr.opcode_lt _) h1 (by decide) (by decide)).1

theorem rbUsed (ring : Nat) : Statement (.rbUsed ring) := by
  intro h
  have h1 := of_decide_eq_true h
  exact (formatA_fields (Instr.opcode_lt _) h1 (by decide) (by decide)).1

theorem rbReset (ring : Nat) : Statement (.rbReset ring) := by
  intro h
  have h1 := of_decide_eq_true h
  exact (formatA_fields (Instr.opcode_lt _) h1 (by decide) (by decide)).1

theorem rbPushs (ring : Nat) (len : Nat) : Statement (.rbPushs ring len) := by
  intro h
  have h1 := of_decide_eq_true (Bool.and_eq_true_iff.mp h).1
  have h2 := of_decide_eq_true (Bool.and_eq_true_iff.mp h).2
  exact (formatA_fields (Instr.opcode_lt _) h1 h2 (by decide)).1

theorem rbPops (ring : Nat) (max : Nat) : Statement (.rbPops ring max) := by
  intro h
  have h1 := of_decide_eq_true (Bool.and_eq_true_iff.mp h).1
  have h2 := of_decide_eq_true (Bool.and_eq_true_iff.mp h).2
  exact (formatA_fields (Instr.opcode_lt _) h1 h2 (by decide)).1

theorem brDrain : Statement .brDrain := by
  intro _
  exact (formatA_fields (Instr.opcode_lt _) (by decide) (by decide) (by decide)).1

theorem brRoom : Statement .brRoom := by
  intro _
  exact (formatA_fields (Instr.opcode_lt _) (by decide) (by decide) (by decide)).1

theorem brDeliver (len : Nat) : Statement (.brDeliver len) := by
  intro h
  have h1 := of_decide_eq_true h
  exact (formatA_fields (Instr.opcode_lt _) (by decide) h1 (by decide)).1

end Sys2Proof.Laws.EncodedOpcode
end

