-- ==== Sys2Proof/Laws/Step.lean ====
section
/-! SUPPORT. What one step can do: who moves (`spec/20_memory.md` R82, R85), and what a command on the interrupt port can
do (`spec/60_exceptions.md` R351). -/

namespace Sys2Proof.Machine

/-! ## Who moves -/

/-- The state a move carries. -/
def Move.state : Move → State
  | .idle s => s
  | .micro s => s
  | .command _ _ s => s
  | .reset s => s

/-- Choosing a move only uses up inputs. -/
theorem State.nextMove_state (s : State) :
    ∃ program preempt, s.nextMove.state = { s with env := { s.env with program := program, preempt := preempt } } := by
  unfold State.nextMove
  split
  · exact ⟨_, _, rfl⟩
  · rename_i i rest _ _
    cases i <;> exact ⟨_, _, rfl⟩
  · exact ⟨_, _, rfl⟩
  · rename_i i rest _ _
    unfold State.interleave
    split
    · exact ⟨_, _, rfl⟩
    · split
      · exact ⟨_, _, rfl⟩
      · cases i <;> exact ⟨_, _, rfl⟩
      · exact ⟨_, _, rfl⟩

/-- A foreground command is accepted only when no bulk command is in progress, a micro-step runs only when one is. -/
theorem State.nextMove_bulk (s : State) :
    (∀ w u, s.nextMove = .command .fg w u → s.bulk = none) ∧ (∀ u, s.nextMove = .micro u → s.bulk ≠ none)
    ∧ (∀ u, s.nextMove = .idle u → s.bulk = none) := by
  unfold State.nextMove
  cases hb : s.bulk with
  | none =>
    refine ⟨fun _ _ _ => rfl, fun u h => ?_, fun _ _ => rfl⟩
    cases hp : s.env.program with
    | nil => rw [hp] at h; cases h
    | cons i rest => rw [hp] at h; cases i <;> cases h
  | some b =>
    refine ⟨fun w u h => ?_, fun _ _ => by simp, fun u h => ?_⟩
    · cases hp : s.env.program with
      | nil => rw [hp] at h; cases h
      | cons i rest =>
        rw [hp] at h
        dsimp only at h
        unfold State.interleave at h
        split at h
        · cases h
        · rename_i hm
          split at h
          · cases h
          · cases i with
            | command p w' =>
              cases p
              · exact absurd rfl hm
              · cases h
            | hardwareReset => cases h
          · cases h
    · cases hp : s.env.program with
      | nil => rw [hp] at h; cases h
      | cons i rest =>
        rw [hp] at h
        dsimp only at h
        unfold State.interleave at h
        split at h
        · cases h
        · split at h
          · cases h
          · cases i <;> cases h
          · cases h

/-- What one step is, case by case. -/
theorem step_cases {s t : State} (h : step s = .next t) :
    (∃ u, s.nextMove = .idle u ∧ t = u)
    ∨ (∃ u, s.nextMove = .micro u ∧ t = u.microStep)
    ∨ (∃ u, s.nextMove = .reset u ∧ t = u.hardwareReset)
    ∨ (∃ p w u i, s.nextMove = .command p w u ∧ decode w = .ok i ∧ exec i (u.onPort p) = .next t)
    ∨ (∃ p w u e, s.nextMove = .command p w u ∧ decode w = .error e ∧ t = u.illegal p) := by
  unfold step at h
  cases hm : s.nextMove with
  | idle u => rw [hm] at h; injection h with h; exact .inl ⟨u, rfl, h.symm⟩
  | micro u => rw [hm] at h; injection h with h; exact .inr (.inl ⟨u, rfl, h.symm⟩)
  | reset u => rw [hm] at h; injection h with h; exact .inr (.inr (.inl ⟨u, rfl, h.symm⟩))
  | command p w u =>
    rw [hm] at h
    dsimp only at h
    cases hd : decode w with
    | ok i => rw [hd] at h; exact .inr (.inr (.inr (.inl ⟨p, w, u, i, rfl, hd, h⟩)))
    | error e => rw [hd] at h; injection h with h; exact .inr (.inr (.inr (.inr ⟨p, w, u, e, rfl, hd, h.symm⟩)))

/-- An illegal word changes ERR of its port to 7 (R337). -/
theorem State.illegal_eq (s : State) (p : Port) : s.illegal p = onlyErr (s.onPort p) 7 :=
  State.raise_eq_onlyErr _ (by decide)

/-! ## The interrupt port -/

/-- The commands the interrupt port may run (R351). -/
theorem permitted_irq {i : Instr} (h : permitted i .irq = true) :
    i = .nop ∨ (∃ r, i = .rbFree r) ∨ (∃ r, i = .rbUsed r) ∨ (∃ r b, i = .rbPush r b ∧ r ≠ 1)
    ∨ (∃ r, i = .rbPop r ∧ r ≠ 0) ∨ (∃ r o, i = .rbPeek r o ∧ r ≠ 0) := by
  cases i <;> simp_all [permitted, accessOf, Access.allows]

theorem ringOf_eq_srx {r : Nat} {x : Ring} (h : ringOf r = some x) (hr : r ≠ 1) : x = .srx := by
  unfold ringOf at h
  split at h
  · injection h with h; exact h.symm
  · exact absurd rfl hr
  · cases h

theorem ringOf_eq_stx {r : Nat} {x : Ring} (h : ringOf r = some x) (hr : r ≠ 0) : x = .stx := by
  unfold ringOf at h
  split at h
  · exact absurd rfl hr
  · injection h with h; exact h.symm
  · cases h

/-- Everything a command on IRQCMD can do. -/
theorem irq_cases {i : Instr} {s t : State} (hp : s.port = .irq) (h : exec i s = .next t) :
    (∃ code, legalErr code = true ∧ t = onlyErr s code)
    ∨ (∃ v, t = s.answer v)
    ∨ (∃ b, s.ringFull .srx = false ∧ t = (s.ringPut .srx b).answer 1)
    ∨ (s.ringFull .srx = true ∧ t = (s.countOverflow .srx).setRegs .irq ⟨0, 1⟩)
    ∨ (s.ringEmpty .stx = false ∧ t = (s.ringDrop .stx).answer ((s.rd .stx s.stx.remove).zeroExtend 16)) := by
  have range : s.raise .rangeError = onlyErr s 8 := State.raise_eq_onlyErr s (by decide)
  have empty : s.raise .bufferEmpty = onlyErr s 2 := State.raise_eq_onlyErr s (by decide)
  by_cases hperm : permitted i s.port = true
  case neg =>
    rw [exec_violation (by simpa using hperm)] at h
    injection h with h
    exact .inl ⟨9, rfl, h.symm⟩
  rw [hp] at hperm
  obtain rfl | ⟨r, rfl⟩ | ⟨r, rfl⟩ | ⟨r, b, rfl, hr⟩ | ⟨r, rfl, hr⟩ | ⟨r, o, rfl, hr⟩ := permitted_irq hperm
  · change execNop s = _ at h
    unfold execNop at h
    obtain ⟨-, rfl⟩ | ⟨-, -, -, rfl⟩ | ⟨-, rfl⟩ := gate_cases h
    · exact .inl ⟨9, rfl, rfl⟩
    · exact .inl ⟨10, rfl, rfl⟩
    · exact .inl ⟨0, rfl, by simp [State.done, State.setErr, onlyErr, State.setRegs, State.regs, hp]⟩
  · change execRbFree r s = _ at h
    unfold execRbFree State.withRing at h
    obtain ⟨-, rfl⟩ | ⟨-, -, -, rfl⟩ | ⟨-, rfl⟩ := gate_cases h
    · exact .inl ⟨9, rfl, rfl⟩
    · exact .inl ⟨10, rfl, rfl⟩
    · split
      · exact .inr (.inl ⟨_, rfl⟩)
      · exact .inl ⟨8, rfl, range⟩
  · change execRbUsed r s = _ at h
    unfold execRbUsed State.withRing at h
    obtain ⟨-, rfl⟩ | ⟨-, -, -, rfl⟩ | ⟨-, rfl⟩ := gate_cases h
    · exact .inl ⟨9, rfl, rfl⟩
    · exact .inl ⟨10, rfl, rfl⟩
    · split
      · exact .inr (.inl ⟨_, rfl⟩)
      · exact .inl ⟨8, rfl, range⟩
  · change execRbPush r b s = _ at h
    unfold execRbPush State.withRing at h
    obtain ⟨-, rfl⟩ | ⟨-, -, -, rfl⟩ | ⟨-, rfl⟩ := gate_cases h
    · exact .inl ⟨9, rfl, rfl⟩
    · exact .inl ⟨10, rfl, rfl⟩
    · split
      · rename_i x hx
        obtain rfl := ringOf_eq_srx hx hr
        dsimp only
        obtain ⟨hf, e⟩ | ⟨hf, e⟩ := s.tryPush_cases .srx b
        · rw [e]
          exact .inr (.inr (.inr (.inl ⟨hf, by rw [hp]; rfl⟩)))
        · rw [e]
          exact .inr (.inr (.inl ⟨b, hf, rfl⟩))
      · exact .inl ⟨8, rfl, range⟩
  · change execRbPop r s = _ at h
    unfold execRbPop State.withRing at h
    obtain ⟨-, rfl⟩ | ⟨-, -, -, rfl⟩ | ⟨-, rfl⟩ := gate_cases h
    · exact .inl ⟨9, rfl, rfl⟩
    · exact .inl ⟨10, rfl, rfl⟩
    · split
      · rename_i x hx
        obtain rfl := ringOf_eq_stx hx hr
        dsimp only
        obtain ⟨he, e⟩ | ⟨he, e⟩ := s.tryPop_cases .stx
        · rw [e]
          exact .inl ⟨2, rfl, empty⟩
        · rw [e]
          exact .inr (.inr (.inr (.inr ⟨he, rfl⟩)))
      · exact .inl ⟨8, rfl, range⟩
  · change execRbPeek r o s = _ at h
    unfold execRbPeek State.withRing at h
    obtain ⟨-, rfl⟩ | ⟨-, -, -, rfl⟩ | ⟨-, rfl⟩ := gate_cases h
    · exact .inl ⟨9, rfl, rfl⟩
    · exact .inl ⟨10, rfl, rfl⟩
    · split
      · dsimp only
        split
        · exact .inl ⟨2, rfl, empty⟩
        · exact .inr (.inl ⟨_, rfl⟩)
      · exact .inl ⟨8, rfl, range⟩

end Sys2Proof.Machine
end

