-- ==== Sys2Proof/Tests/Slice0.lean ====
section
/-! SUPPORT. The model's own tests. Expected results come from the examples of the rules and from
`spec/95_test_vectors.md`, whose test configurations TC1 and TC2 are written out here; a witness theorem shows that the
hypotheses of a statement of `Certificates/Slice0/Obligations.lean` can be met. -/

namespace Sys2Proof.Tests

open Sys2Proof.Machine

/-! ## The test configurations (95_test_vectors section 0) -/

/-- TC1. -/
def tc1 : Config where
  stride := [1, 5, 7, 5, 7] ++ List.replicate 81 1
  fecK := 6
  fecN := 12
  fecT := 0
  codec := .complement
  rxCap := 8
  txCap := 8
  minClearTicks := 1
  dcWindowTicks := 100
  numSlots := 4
  slotTicks := 2
  backoff := .reference 4
  heartbeat := .counters
  creditMax := 2

/-- TC2: TC1 with the majority codec. -/
def tc2 : Config := { tc1 with fecN := 18, fecT := 1, codec := .majority }

/-- TC1 with an unsupported FEC block size (95_test_vectors section 2.7, fatal configuration). -/
def tc1Fatal : Config := { tc1 with fecK := 5, fecN := 10 }

/-- The state after hardware reset under TC1. -/
def fresh : State := State.resetWith tc1

/-- A command on FGCMD, or on IRQCMD, and the state after it. -/
def run (p : Port) (i : Instr) (s : State) : Option State :=
  match exec i { s with port := p } with
  | .next t => some t
  | .fault _ => none
  | .refused _ => none

/-- One step, and the state after it. -/
def stepped (s : State) : Option State :=
  match step s with
  | .next t => some t
  | .fault _ => none
  | .refused _ => none

/-- Registers of the frames in 95_test_vectors section 2.4: network 0x1234, node 0x11. -/
def asNode (s : State) : State := { s with tun := { s.tun with netid := 0x1234, nodeid := 0x11 } }

/-- What the radio and the command interpreter will answer next. -/
def hearing (radio : Option (List Byte)) (clear : Bool) (rssi : Byte) (sent : Bool) (reply : Option (List Byte))
    (s : State) : State :=
  { s with env := { s.env with answers := ⟨[radio], [clear], [rssi], [sent], [reply]⟩ } }

/-- F_HI of 95_test_vectors section 2.4. -/
def frameHi : List Byte :=
  [0x00, 0x00, 0x11, 0x34, 0x12, 0x02, 0x04, 0x01, 0x20, 0x20, 0x00, 0x0C, 0xFB, 0xFE, 0xDF, 0xDF, 0xFF, 0xF3]

/-- F_HELLO of 95_test_vectors section 2.4. -/
def frameHello : List Byte :=
  [0x00, 0x00, 0x11, 0x34, 0x12, 0x05, 0x24, 0x05, 0x64, 0x44, 0xE1, 0x64, 0xDB, 0xFA, 0x9B, 0xBB, 0x1E, 0x9B]

/-- F_AT of 95_test_vectors section 2.4. -/
def frameAt : List Byte :=
  [0x02, 0x09, 0x11, 0x34, 0x12, 0x03, 0x05, 0x04, 0x41, 0x00, 0x30, 0x04, 0xFA, 0xFB, 0xBE, 0xFF, 0xCF, 0xFB]

/-- The payload "HELLO". -/
def hello : List Byte := [0x48, 0x45, 0x4C, 0x4C, 0x4F]

/-- Ring SRX holding the bytes from index 0 on. -/
def serialIn (bs : List Byte) (s : State) : State := { s.writeBytes .srx 0 bs with srx := ⟨bs.length, 0⟩ }

/-- Ring STX holding the bytes from index 0 on. -/
def serialOut (bs : List Byte) (s : State) : State := { s.writeBytes .stx 0 bs with stx := ⟨bs.length, 0⟩ }

/-- The state waits in TRANSMIT_WINDOW. -/
def inWindow (s : State) : State := { s with sch := { s.sch with state := .transmitWindow } }

theorem test_tc1_wf : tc1.wf = true := by decide
theorem test_tc2_wf : tc2.wf = true := by decide
theorem test_tc1Fatal_wf : tc1Fatal.wf = true := by decide

/-- R8: BackoffRef of span 1 is a constant, of span 2 it is not. -/
theorem test_backoff_depends_on_netid :
    ({ tc1 with backoff := .reference 1 } : Config).wf = false ∧ ({ tc1 with backoff := .reference 2 } : Config).wf = true := by
  decide

/-- R8: the external function is in a well-formed configuration exactly when it depends on the network id. -/
theorem test_external_backoff_wf :
    ({ tc1 with backoff := .external } : Config).backoffFits = Config.dependsOnNetid Config.externalBackoff := rfl

/-! ## Well-formedness: each check refuses a term (R101, R102) -/

theorem test_illFormed_memRd_sp : Instr.wellFormed (.memRd 256 0) = false := by decide
theorem test_illFormed_memRd_addr : Instr.wellFormed (.memRd 0 256) = false := by decide
theorem test_illFormed_memWr_sp : Instr.wellFormed (.memWr 256 0 0) = false := by decide
theorem test_illFormed_memWr_addr : Instr.wellFormed (.memWr 0 256 0) = false := by decide
theorem test_illFormed_cfgWr : Instr.wellFormed (.cfgWr 256 0) = false := by decide
theorem test_illFormed_cfgRd : Instr.wellFormed (.cfgRd 256) = false := by decide
theorem test_illFormed_ilvGetbit_n : Instr.wellFormed (.ilvGetbit 256 0) = false := by decide
theorem test_illFormed_ilvGetbit_idx : Instr.wellFormed (.ilvGetbit 3 2048) = false := by decide
theorem test_illFormed_ilvSetbit_n : Instr.wellFormed (.ilvSetbit 256 true 0) = false := by decide
theorem test_illFormed_ilvSetbit_idx : Instr.wellFormed (.ilvSetbit 3 true 2048) = false := by decide
theorem test_illFormed_ilvGetbyte_n : Instr.wellFormed (.ilvGetbyte 256 0) = false := by decide
theorem test_illFormed_ilvGetbyte_k : Instr.wellFormed (.ilvGetbyte 3 256) = false := by decide
theorem test_illFormed_ilvSetbyte_n : Instr.wellFormed (.ilvSetbyte 256 0 0) = false := by decide
theorem test_illFormed_ilvSetbyte_k : Instr.wellFormed (.ilvSetbyte 3 256 0) = false := by decide
theorem test_illFormed_ilvPhys_n : Instr.wellFormed (.ilvPhys 256 0) = false := by decide
theorem test_illFormed_ilvPhys_idx : Instr.wellFormed (.ilvPhys 3 2048) = false := by decide
theorem test_illFormed_frmFrame : Instr.wellFormed (.frmFrame 0 256) = false := by decide
theorem test_illFormed_schSubmit : Instr.wellFormed (.schSubmit 0 256) = false := by decide
theorem test_illFormed_rbPush : Instr.wellFormed (.rbPush 256 0) = false := by decide
theorem test_illFormed_rbPop : Instr.wellFormed (.rbPop 256) = false := by decide
theorem test_illFormed_rbPeek_ring : Instr.wellFormed (.rbPeek 256 0) = false := by decide
theorem test_illFormed_rbPeek_offset : Instr.wellFormed (.rbPeek 0 256) = false := by decide
theorem test_illFormed_rbFree : Instr.wellFormed (.rbFree 256) = false := by decide
theorem test_illFormed_rbUsed : Instr.wellFormed (.rbUsed 256) = false := by decide
theorem test_illFormed_rbReset : Instr.wellFormed (.rbReset 256) = false := by decide
theorem test_illFormed_rbPushs_ring : Instr.wellFormed (.rbPushs 256 0) = false := by decide
theorem test_illFormed_rbPushs_len : Instr.wellFormed (.rbPushs 1 256) = false := by decide
theorem test_illFormed_rbPops_ring : Instr.wellFormed (.rbPops 256 0) = false := by decide
theorem test_illFormed_rbPops_max : Instr.wellFormed (.rbPops 0 256) = false := by decide
theorem test_illFormed_brDeliver : Instr.wellFormed (.brDeliver 256) = false := by decide

/-! ## Decoding, a word for every command (R106; words of 95_test_vectors and of the rules' examples where they give one) -/

theorem test_decode_nop : decode 0x00000000 = .ok .nop := by decide
theorem test_decode_memRd : decode 0x01040200 = .ok (.memRd 4 2) := by decide
theorem test_decode_memWr : decode 0x02010048 = .ok (.memWr 1 0 0x48) := by decide
theorem test_decode_cfgWr : decode 0x0809000A = .ok (.cfgWr 9 10) := by decide
theorem test_decode_cfgRd : decode 0x090B0000 = .ok (.cfgRd 0x0B) := by decide
theorem test_decode_ctlReset : decode 0x0F000000 = .ok .ctlReset := by decide
theorem test_decode_ilvGetbit : decode 0x10030002 = .ok (.ilvGetbit 3 2) := by decide
theorem test_decode_ilvSetbit : decode 0x11038001 = .ok (.ilvSetbit 3 true 1) := by decide
theorem test_decode_ilvGetbyte : decode 0x12030100 = .ok (.ilvGetbyte 3 1) := by decide
theorem test_decode_ilvSetbyte : decode 0x130301FF = .ok (.ilvSetbyte 3 1 0xFF) := by decide
theorem test_decode_ilvPhys : decode 0x14030017 = .ok (.ilvPhys 3 23) := by decide
theorem test_decode_frmFrame : decode 0x20000200 = .ok (.frmFrame 0 2) := by decide
theorem test_decode_frmDeframe : decode 0x21000000 = .ok .frmDeframe := by decide
theorem test_decode_schTick : decode 0x30000000 = .ok .schTick := by decide
theorem test_decode_schHbreq : decode 0x31000000 = .ok .schHbreq := by decide
theorem test_decode_schHbclr : decode 0x32000000 = .ok .schHbclr := by decide
theorem test_decode_schSubmit : decode 0x33000700 = .ok (.schSubmit 0 7) := by decide
theorem test_decode_schRpclr : decode 0x34000000 = .ok .schRpclr := by decide
theorem test_decode_rbPush : decode 0x40000031 = .ok (.rbPush 0 0x31) := by decide
theorem test_decode_rbPop : decode 0x41010000 = .ok (.rbPop 1) := by decide
theorem test_decode_rbPeek : decode 0x42000600 = .ok (.rbPeek 0 6) := by decide
theorem test_decode_rbFree : decode 0x43010000 = .ok (.rbFree 1) := by decide
theorem test_decode_rbUsed : decode 0x44010000 = .ok (.rbUsed 1) := by decide
theorem test_decode_rbReset : decode 0x45010000 = .ok (.rbReset 1) := by decide
theorem test_decode_rbPushs : decode 0x46010500 = .ok (.rbPushs 1 5) := by decide
theorem test_decode_rbPops : decode 0x4700FF00 = .ok (.rbPops 0 255) := by decide
theorem test_decode_brDrain : decode 0x50000000 = .ok .brDrain := by decide
theorem test_decode_brRoom : decode 0x51000000 = .ok .brRoom := by decide
theorem test_decode_brDeliver : decode 0x52000900 = .ok (.brDeliver 9) := by decide

/-- The fields of a format B word written out bit by bit: op 0x11, n = 3, v = 1, four zeros, idx = 5 (R101). -/
theorem test_decode_formatB_bits :
    decode 0b00010001_00000011_1_0000_00000000101 = .ok (.ilvSetbit 3 true 5) := by decide
/-- Format I bit by bit: op 0x08, r = 0x0A, imm = 0x1234 (R101). -/
theorem test_decode_formatI_bits : decode 0b00001000_00001010_0001001000110100 = .ok (.cfgWr 0x0A 0x1234) := by decide

/-! Illegal words of 95_test_vectors section 2.7. -/

theorem test_illegal_nop : decode 0x00000001 = .error .mustBeZero := by decide
theorem test_illegal_opcode03 : decode 0x03000000 = .error .unassignedOpcode := by decide
theorem test_illegal_opcodeFF : decode 0xFF000000 = .error .unassignedOpcode := by decide
theorem test_illegal_getbit15 : decode 0x10038002 = .error .mustBeZero := by decide
theorem test_illegal_getbit11 : decode 0x10030802 = .error .mustBeZero := by decide
theorem test_illegal_cfgRd : decode 0x09001234 = .error .mustBeZero := by decide
theorem test_illegal_brDeliver : decode 0x52010200 = .error .mustBeZero := by decide
theorem test_illegal_rbPush : decode 0x40000141 = .error .mustBeZero := by decide

/-! ## One step of each command -/

/-- NOP on IRQCMD clears IERR and keeps IRESULT and the foreground's pair (R130, R131). -/
theorem test_nop :
    (run .irq .nop { fresh with irq := ⟨7, 2⟩, fg := ⟨9, 8⟩ }).map (fun t => (t.irq, t.fg)) = some (⟨7, 0⟩, ⟨9, 8⟩) := by
  decide

/-- `MEM.RD TABLE, 2` gives 5 (R132). -/
theorem test_memRd_table : (run .fg (.memRd 4 2) fresh).map (·.fg) = some ⟨5, 0⟩ := by decide
/-- `MEM.RD BLK, 255` is out of range (95_test_vectors 2.1). -/
theorem test_memRd_range : (run .fg (.memRd 0 255) { fresh with fg := ⟨3, 0⟩ }).map (·.fg) = some ⟨3, 8⟩ := by decide

/-- `MEM.WR PAY, 0, 0x48` (R133). -/
theorem test_memWr : (run .fg (.memWr 1 0 0x48) fresh).map (fun t => (t.rd .pay 0, t.fg)) = some (0x48, ⟨0, 0⟩) := by decide
/-- TXB is read-only to MEM.WR (95_test_vectors 2.1). -/
theorem test_memWr_txb : (run .fg (.memWr 2 0 0) fresh).map (fun t => (t.mem, t.fg.err)) = some ([], 8) := by decide

/-- `CFG.WR LBT, 10` leaves 25 (R134). -/
theorem test_cfgWr_lbt : (run .fg (.cfgWr 9 10) fresh).map (·.tun.lbt) = some 25 := by decide
/-- `CFG.WR MAXPAY, 7` leaves FEC_K = 6 (95_test_vectors 2.1). -/
theorem test_cfgWr_maxpay : (run .fg (.cfgWr 0x0B 7) { fresh with tun := { fresh.tun with maxpay := 1 } }).map (·.tun.maxpay) = some 6 := by
  decide

/-- `CFG.RD ERR` gives the previous ERR, then ERR is 0 (R135). -/
theorem test_cfgRd_err : (run .fg (.cfgRd 1) { fresh with fg := ⟨7, 12⟩ }).map (·.fg) = some ⟨12, 0⟩ := by decide
/-- After reset CREDIT reads CREDIT_MAX = 2 (95_test_vectors 2.1). -/
theorem test_cfgRd_credit : (run .fg (.cfgRd 0x21) fresh).map (·.fg) = some ⟨2, 0⟩ := by decide

/-- CTL.RESET leaves the fatal state and keeps memory (R136; P1 step 15). -/
theorem test_ctlReset :
    (run .fg .ctlReset { fresh.wr .blk 0 0x97 with fatal := true, fg := ⟨1, 10⟩, irq := ⟨5, 2⟩ }).map
      (fun t => (t.fatal, t.fg, t.irq, t.rd .blk 0)) = some (false, ⟨0, 0⟩, ⟨0, 0⟩, 0x97) := by decide

/-- `ILV.GETBIT 3, 2` on 97 5E 0A reads 1 (R186). -/
theorem test_ilvGetbit :
    (run .fg (.ilvGetbit 3 2) (fresh.writeBytes .blk 0 [0x97, 0x5E, 0x0A])).map (·.fg) = some ⟨1, 0⟩ := by decide
/-- `ILV.GETBIT 5, 40`: the size check comes before the index check (95_test_vectors 2.3). -/
theorem test_ilvGetbit_order : (run .fg (.ilvGetbit 5 40) fresh).map (fun t => (t.fg.err, t.fatal)) = some (6, true) := by
  decide

/-- `ILV.SETBIT 3, 0, 1` on FF FF FF gives DF FF FF (R187). -/
theorem test_ilvSetbit :
    (run .fg (.ilvSetbit 3 false 1) (fresh.writeBytes .blk 0 [0xFF, 0xFF, 0xFF])).map (·.readBytes .blk 3) =
      some [0xDF, 0xFF, 0xFF] := by decide

/-- `ILV.GETBYTE 3, 1` on 97 5E 0A gives 0x3C (R188). -/
theorem test_ilvGetbyte :
    (run .fg (.ilvGetbyte 3 1) (fresh.writeBytes .blk 0 [0x97, 0x5E, 0x0A])).map (·.fg) = some ⟨0x3C, 0⟩ := by decide
/-- `ILV.GETBYTE 3, 3` is out of range (95_test_vectors 2.3). -/
theorem test_ilvGetbyte_range : (run .fg (.ilvGetbyte 3 3) fresh).map (fun t => (t.fg.err, t.fatal)) = some (8, false) := by
  decide

/-- `ILV.SETBYTE 3, 1, 0xFF` on zeros gives 8C 10 63 (R189). -/
theorem test_ilvSetbyte :
    (run .fg (.ilvSetbyte 3 1 0xFF) (fresh.writeBytes .blk 0 [0, 0, 0])).map (·.readBytes .blk 3) =
      some [0x8C, 0x10, 0x63] := by decide

/-- `ILV.PHYS 3, 23` gives 19 (95_test_vectors 2.3). -/
theorem test_ilvPhys : (run .fg (.ilvPhys 3 23) fresh).map (·.fg) = some ⟨19, 0⟩ := by decide
/-- `ILV.PHYS 0, 0` is fatal (95_test_vectors 2.3). -/
theorem test_ilvPhys_zero : (run .fg (.ilvPhys 0 0) fresh).map (fun t => (t.fg.err, t.fatal)) = some (6, true) := by decide

/-- The example of R220. -/
theorem test_frmFrame :
    (run .fg (.frmFrame 0 2) ((asNode fresh).writeBytes .pay 0 [0x48, 0x69])).map
      (fun t => (t.readBytes .txb 18, t.readBytes .blk 6, t.fg)) =
      some (frameHi, [0x04, 0x01, 0x20, 0x20, 0x00, 0x0C], ⟨18, 0⟩) := by decide
/-- F_TRUNC of 95_test_vectors 2.4: a length operand above FEC_K is cut, and LEN says so. -/
theorem test_frmFrame_trunc :
    (run .fg (.frmFrame 0 8) ((asNode fresh).writeBytes .pay 0 [0x41, 0x42, 0x43, 0x44, 0x45, 0x46, 0x47, 0x48])).map
      (fun t => (t.rd .txb 5, t.readBytes .blk 6)) = some (6, [0x45, 0x84, 0x85, 0x04, 0x45, 0xC4]) := by decide

/-- The example of R221. -/
theorem test_frmDeframe :
    (run .fg .frmDeframe (fresh.writeBytes .rxb 0 frameHi)).map (fun t => (t.readBytes .pay 2, t.rx, t.fg)) =
      some ([0x48, 0x69], ⟨0, 0, 0x11, 0x1234, 2⟩, ⟨2, 0⟩) := by decide
/-- Under TC2 one flipped body bit is corrected and counted in CORR (95_test_vectors 2.4). -/
theorem test_frmDeframe_corrected :
    (run .fg .frmDeframe
      ((State.resetWith tc2).writeBytes .rxb 0
        [0x00, 0x00, 0x11, 0x34, 0x12, 0x02, 0x04, 0x09, 0x20, 0x20, 0x00, 0x0C, 0x04, 0x01, 0x20, 0x20, 0x00, 0x0C,
          0x04, 0x01, 0x20, 0x20, 0x00, 0x0C])).map
      (fun t => (t.readBytes .pay 2, t.corr, t.cnt.corr, t.fg)) = some ([0x48, 0x69], 1, 0, ⟨2, 0⟩) := by decide

/-- The example of R241: a quiet tick after reset. -/
theorem test_schTick_quiet :
    (run .fg .schTick (hearing none true 0 true none fresh)).map
      (fun t => (t.sch.state, t.sch.dcElapsed, t.sch.clearCnt, t.tickCond)) = some (.transmitWindow, 1, 1, 0) := by decide
/-- P3 step 16: the pending "HELLO" is keyed. -/
theorem test_schTick_transmit :
    (run .fg .schTick
      (hearing none true 0 true none
        { inWindow (asNode fresh) with
          txPending := some ⟨0, hello⟩
          sch := { (inWindow fresh).sch with slotTmr := 1, dcElapsed := 1, clearCnt := 1 } })).map
      (fun t => (t.readBytes .txb 18, t.tickCond, t.sch.dcTx, t.txPending, t.sch.state)) =
      some (frameHello, 0x0900, 1, none, .listen) := by decide

/-- SCH.HBREQ (R263). -/
theorem test_schHbreq : (run .fg .schHbreq fresh).map (fun t => statusWord t) = some 0x0020 := by decide
/-- SCH.HBCLR (R264). -/
theorem test_schHbclr : (run .fg .schHbclr { fresh with hbReq := true }).map (fun t => statusWord t) = some 0 := by decide
/-- SCH.RPCLR (R265). -/
theorem test_schRpclr : (run .fg .schRpclr { fresh with replyPending := some [0x4F] }).map (·.replyPending) = some none := by
  decide

/-- `SCH.SUBMIT DATA, 1` into the empty slot (95_test_vectors 2.5). -/
theorem test_schSubmit :
    (run .fg (.schSubmit 0 1) (fresh.wr .pay 0 0x5A)).map (fun t => (t.txPending, t.fg.err)) = some (some ⟨0, [0x5A]⟩, 0) := by
  decide
/-- `SCH.SUBMIT HEARTBEAT, 1` is out of range (95_test_vectors 2.5). -/
theorem test_schSubmit_type : (run .fg (.schSubmit 1 1) fresh).map (fun t => (t.txPending, t.fg.err)) = some (none, 8) := by
  decide

/-- RB.PUSH on a full SRX: ERR 1, RESULT 0, one overflow (95_test_vectors 2.2 row 8). -/
theorem test_rbPush_full :
    (run .irq (.rbPush 0 0x38) { fresh with srx := ⟨7, 0⟩ }).map (fun t => (t.irq, t.cnt.rxOvf, t.srx)) =
      some (⟨0, 1⟩, 1, ⟨7, 0⟩) := by decide
/-- RB.PUSH at the end of the storage wraps `insert` (95_test_vectors 2.2 row 17). -/
theorem test_rbPush_wrap :
    (run .irq (.rbPush 0 0x41) { fresh with srx := ⟨7, 3⟩ }).map (fun t => (t.irq, t.rd .srx 7, t.srx)) =
      some (⟨1, 0⟩, 0x41, ⟨0, 3⟩) := by decide

/-- The example of R154. -/
theorem test_rbPop :
    (run .fg (.rbPop 0) { fresh.wr .srx 7 0x41 with srx := ⟨1, 7⟩ }).map (fun t => (t.fg, t.srx)) = some (⟨0x41, 0⟩, ⟨1, 0⟩) := by
  decide
/-- RB.POP on an empty ring (95_test_vectors 2.2 row 21). -/
theorem test_rbPop_empty : (run .fg (.rbPop 0) { fresh with fg := ⟨6, 0⟩, srx := ⟨1, 1⟩ }).map (·.fg) = some ⟨6, 2⟩ := by
  decide

/-- The example of R155: `remove` 6, `insert` 2, offset 3 is index 1. -/
theorem test_rbPeek :
    (run .fg (.rbPeek 0 3) { fresh.wr .srx 1 0x42 with srx := ⟨2, 6⟩ }).map (·.fg) = some ⟨0x42, 0⟩ := by decide
/-- The same example with offset 4: BufferEmpty. -/
theorem test_rbPeek_beyond : (run .fg (.rbPeek 0 4) { fresh with srx := ⟨2, 6⟩ }).map (·.fg) = some ⟨0, 2⟩ := by decide

/-- The example of R157. -/
theorem test_rbUsed : (run .irq (.rbUsed 1) { fresh with stx := ⟨1, 6⟩ }).map (·.irq) = some ⟨3, 0⟩ := by decide
/-- The example of R158: an empty ring of capacity 8 has 7 free. -/
theorem test_rbFree : (run .fg (.rbFree 0) fresh).map (·.fg) = some ⟨7, 0⟩ := by decide
/-- RB.RESET (R159). -/
theorem test_rbReset :
    (run .fg (.rbReset 1) { fresh.wr .stx 3 0x55 with stx := ⟨4, 2⟩ }).map (fun t => (t.stx, t.rd .stx 3)) =
      some (⟨0, 0⟩, 0x55) := by decide

/-- The example of R160: two of four bytes fit. -/
theorem test_rbPushs :
    (run .fg (.rbPushs 1 4) { fresh.writeBytes .pay 0 [0x41, 0x42, 0x43, 0x44] with stx := ⟨5, 0⟩ }).map
      (fun t => ((t.runBulk 4).fg, (t.runBulk 4).cnt.txOvf, (t.runBulk 4).readBytes .stx 7 |>.drop 5)) =
      some (⟨2, 1⟩, 1, [0x41, 0x42]) := by decide
/-- RB.POPS of everything (95_test_vectors 2.2 row 20, two bytes across the end). -/
theorem test_rbPops :
    (run .fg (.rbPops 0 255) { (fresh.wr .srx 7 0x41).wr .srx 0 0x42 with srx := ⟨1, 7⟩ }).map
      (fun t => ((t.runBulk 4).fg, (t.runBulk 4).srx, (t.runBulk 4).readBytes .pay 2)) =
      some (⟨2, 0⟩, ⟨1, 1⟩, [0x41, 0x42]) := by decide

/-- R309, P3 step 11: the "HELLO" scenario. -/
theorem test_brDrain :
    (run .fg .brDrain (serialIn hello { fresh with tun := { fresh.tun with maxpay := 5 } })).map
      (fun t => ((t.runBulk 5).fg, (t.runBulk 5).txPending, (t.runBulk 5).bridge.buildLen, (t.runBulk 5).srx)) =
      some (⟨1, 0⟩, some ⟨0, hello⟩, 0, ⟨5, 5⟩) := by decide
/-- BR.ROOM at the boundary (R304). -/
theorem test_brRoom :
    ((run .fg .brRoom { fresh with stx := ⟨2, 0⟩, tun := { fresh.tun with maxpay := 5 } }).map (·.fg),
      (run .fg .brRoom { fresh with stx := ⟨2, 0⟩ }).map (·.fg)) = (some ⟨1, 0⟩, some ⟨0, 0⟩) := by decide
/-- The example of R303. -/
theorem test_brDeliver :
    (run .fg (.brDeliver 9)
        (fresh.writeBytes .pay 0 [0x41, 0x42, 0x43, 0x44, 0x45, 0x46, 0x47, 0x48, 0x49])).map
      (fun t => ((t.runBulk 9).fg, (t.runBulk 9).cnt.txOvf, (t.runBulk 9).ringContents .stx)) =
      some (⟨7, 1⟩, 1, [0x41, 0x42, 0x43, 0x44, 0x45, 0x46, 0x47]) := by decide

/-! ## The order of checks (95_test_vectors 2.7) and the two ports -/

/-- SCH.TICK on IRQCMD while FATAL is set: permission before the fatal refusal. -/
theorem test_order_permission : (run .irq .schTick { fresh with fatal := true }).map (·.irq.err) = some 9 := by decide
/-- `ILV.PHYS 3, 24` while FATAL is set: the fatal refusal before the range. -/
theorem test_order_fatal : (run .fg (.ilvPhys 3 24) { fresh with fatal := true }).map (·.fg.err) = some 10 := by decide
/-- A malformed word that would also violate its role: decode first. -/
theorem test_order_decode :
    (stepped { fresh with env := { fresh.env with program := [.command .fg 0x40000141] } }).map (·.fg.err) = some 7 := by
  decide
/-- 95_test_vectors 2.6: SRX holds 41 42; an interrupt-port push before the third pop attempt joins the packet. -/
theorem test_interleaving :
    let start := serialIn [0x41, 0x42] fresh
    let pushed : Input := .command .irq 0x40000043
    ((run .fg .brDrain { start with env := { start.env with program := [pushed], preempt := [false, true] } }).bind
      fun t => (stepped t).bind fun u => (stepped u).map fun v => ((v.runBulk 5).txPending, v.irq)) =
      some (some ⟨0, [0x41, 0x42, 0x43]⟩, ⟨1, 0⟩) := by decide
/-- The host's way in: a word presented to the reset state is run by the next step (log 15). -/
theorem test_withFetchWord :
    (stepped (fresh.withFetchWord 32 0x40000041)).map (fun t => (t.irq, t.srx)) = some (⟨1, 0⟩, ⟨1, 0⟩) := by decide

/-! ## Witnesses: the hypotheses of each statement can be met, each clause at a boundary -/

/-- A word presented next on a port, with no bulk command in progress. -/
def presenting (p : Port) (w : Word) (s : State) : State := { s with env := { s.env with program := [.command p w] } }

/-- A bulk command in progress, a word or a reset presented, and the environment's choices. -/
def during (b : Bulk) (i : Input) (choices : List Bool) (s : State) : State :=
  { s with bulk := some b, env := { s.env with program := [i], preempt := choices } }

theorem fresh_ready : FgReady fresh := ⟨rfl, rfl⟩

/-- The largest operands an encoding admits. -/
theorem witness_DecodeOfEncode :
    Instr.wellFormed (.memWr 255 255 0xFF) = true ∧ Instr.wellFormed (.ilvSetbit 255 true 2047) = true
    ∧ Instr.wellFormed (.cfgWr 255 0xFFFF) = true := by decide

theorem witness_EncodeOfDecode : decode 0x11FF87FF = .ok (.ilvSetbit 255 true 2047) := by decide

theorem witness_DecodeAgreesWithOpcodeMap :
    decode 0x52000900 = .ok (.brDeliver 9) ∧ decode 0x52010900 = .error .mustBeZero
    ∧ decode 0x53000000 = .error .unassignedOpcode := by decide

theorem witness_StepRunsTheDecodedCommand :
    (presenting .irq 0x40000041 fresh).bulk = none
    ∧ (presenting .irq 0x40000041 fresh).env.program = [.command .irq 0x40000041]
    ∧ decode 0x40000041 = .ok (.rbPush 0 0x41) := by decide

theorem witness_IllegalWordChangesOnlyErr :
    (presenting .irq 0x10030802 fresh).bulk = none
    ∧ (presenting .irq 0x10030802 fresh).env.program = [.command .irq 0x10030802]
    ∧ (during (.pop 2 1) (.command .irq 0x10030802) [true] fresh).bulk = some (.pop 2 1)
    ∧ (during (.pop 2 1) (.command .irq 0x10030802) [true] fresh).env.program = [.command .irq 0x10030802]
    ∧ (during (.pop 2 1) (.command .irq 0x10030802) [true] fresh).env.preempt = [true]
    ∧ decode 0x10030802 = .error .mustBeZero := by decide

/-- The five situations of BulkCommandsInterleave. -/
theorem witness_BulkCommandsInterleave :
    (during (.drain false) (.command .fg 0) [true] fresh).bulk = some (.drain false)
    ∧ (during (.drain false) (.command .fg 0) [true] fresh).env.program = [.command .fg 0]
    ∧ ({ fresh with bulk := some (.pop 2 1) } : State).env.program = []
    ∧ (during (.drain false) (.command .irq 0) [] fresh).env.preempt = []
    ∧ (during (.drain false) (.command .irq 0) [false] fresh).env.preempt = [false]
    ∧ (during (.drain false) (.command .irq 0) [true] fresh).env.preempt = [true] ∧ decode 0 = .ok .nop := by decide

theorem witness_RoleViolationChangesOnlyErr :
    permitted (.rbPush 0 0x41) .fg = false ∧ permitted .schTick .irq = false ∧ permitted (.rbPush 2 0x41) .fg = true
    ∧ fresh.fatal = false ∧ fresh.port = .fg := by decide

theorem witness_FatalRefusesAllButFour :
    ({ fresh with fatal := true } : State).fatal = true ∧ permitted .schHbreq .fg = true
    ∧ permitted (.memRd 4 2) .fg = true := by decide

/-- A step that sets the latch, and the two that clear it. -/
theorem witness_FatalLatchSetAndCleared :
    (stepped (presenting .fg 0x14000000 fresh)).map (·.fatal) = some true
    ∧ (stepped (presenting .fg 0x0F000000 { fresh with fatal := true })).map (·.fatal) = some false
    ∧ (stepped { fresh with fatal := true, env := { fresh.env with program := [.hardwareReset] } }).map (·.fatal) =
        some false := by decide

theorem witness_UnsupportedBlockSizeIsFatal :
    FgReady fresh ∧ supported fresh.cfg 0 = false ∧ supported fresh.cfg 5 = false ∧ supported fresh.cfg 256 = false
    ∧ FgReady (State.resetWith tc1Fatal) ∧ supported tc1Fatal tc1Fatal.fecK = false :=
  ⟨fresh_ready, by decide, by decide, by decide, ⟨rfl, rfl⟩, by decide⟩

theorem witness_ErrorsArePrecise :
    fresh.bulk = none ∧ (run .fg (.ilvPhys 3 24) fresh).map (fun t => (t.bulk, t.fg.err)) = some (none, 8)
    ∧ (run .fg (.ilvPhys 5 0) fresh).map (fun t => (t.bulk, t.fg.err)) = some (none, 6) := by decide

theorem witness_NopOnlyClearsErr : (0xFFFFFF : Word) ≠ 0 ∧ (0xFFFFFF : Word).toNat < 2 ^ 24 := by decide

/-- The last address of each space, and the first one beyond it. -/
theorem witness_MemRdGivesTheByte :
    fresh.port = .fg ∧ 254 < 255 ∧ 17 < 6 + fresh.cfg.fecN ∧ ¬ 18 < 6 + fresh.cfg.fecN ∧ 85 < 86 ∧ 171 = 2 * 85 + 1
    ∧ fresh.cfg.stride.getD 85 0 ≤ 65535 ∧ 172 ≤ 172 := by decide

theorem witness_MemWrWritesOneByte :
    FgReady fresh ∧ 17 < 6 + fresh.cfg.fecN ∧ 6 + fresh.cfg.fecN ≤ 18 := ⟨fresh_ready, by decide, by decide⟩

/-- The boundary values of the clamps. -/
theorem witness_CfgWrClampsAndStores :
    FgReady fresh ∧ (0 : Half).toNat = 0 ∧ 1 ≤ (24 : Half).toNat ∧ (24 : Half).toNat < 25 ∧ 25 ≤ (25 : Half).toNat
    ∧ (220 : Half).toNat ≤ 220 ∧ 220 < (221 : Half).toNat ∧ (0xFFFF : Half).toNat % 2 = 1 ∧ (2 : Half).toNat % 2 = 0 :=
  ⟨fresh_ready, by decide⟩

theorem witness_CfgRdReadsTheRegisterMap : fresh.port = .fg ∧ (State.resetWith tc2).port = .fg := by decide

theorem witness_CtlResetRestoresTheResetState :
    ({ fresh with fatal := true } : State).port = .fg := by decide

theorem witness_HardwareResetRestoresTheResetState :
    ({ fresh with env := { fresh.env with program := [.hardwareReset] } } : State).bulk = none
    ∧ (during (.drain true) .hardwareReset [true] fresh).bulk = some (.drain true)
    ∧ (during (.drain true) .hardwareReset [true] fresh).env.program = [.hardwareReset]
    ∧ (during (.drain true) .hardwareReset [true] fresh).env.preempt = [true] := by decide

/-- A full ring whose cursors stand at the ends of their range. -/
theorem witness_RingOccupancy :
    cursorsOk (({ fresh with srx := ⟨7, 0⟩ } : State).cap .srx) ⟨7, 0⟩ = true
    ∧ cursorsOk (({ fresh with stx := ⟨0, 7⟩ } : State).cap .stx) ⟨0, 7⟩ = true := by decide

/-- A traffic across the end of the storage; and a full ring's worth of pushes. -/
theorem witness_RingRoundTrip :
    cursorsOk (fresh.cap .srx) fresh.srx = true ∧ fresh.ringEmpty .srx = true
    ∧ (ringTraffic .srx [.push 1, .pop, .push 2, .push 3] { fresh with srx := ⟨7, 7⟩ }).map (·.1) = some [1] := by decide

theorem witness_RbPushStoresOrCounts :
    Accepted (.rbPush 1 0x41) fresh ∧ (fresh.stx.insert + 1) % fresh.cap .stx ≠ fresh.stx.remove
    ∧ Accepted (.rbPush 0 0x41) { fresh with port := .irq, srx := ⟨7, 0⟩ }
    ∧ (7 + 1) % fresh.cap .srx = 0 ∧ Accepted (.rbPush 2 0x41) fresh :=
  ⟨⟨rfl, .inl rfl⟩, by decide, ⟨rfl, .inl rfl⟩, by decide, ⟨rfl, .inl rfl⟩⟩

/-- `remove` 6, `insert` 2: a byte to pop, offset 3 the last that answers, 4 the first that does not; an empty ring. -/
theorem witness_RbPopAndPeek :
    Accepted (.rbPop 0) { fresh with srx := ⟨2, 6⟩ } ∧ (2 : Nat) ≠ 6 ∧ 3 < (2 + fresh.cap .srx - 6) % fresh.cap .srx
    ∧ (2 + fresh.cap .srx - 6) % fresh.cap .srx ≤ 4 ∧ Accepted (.rbPop 1) { fresh with port := .irq }
    ∧ fresh.stx.insert = fresh.stx.remove ∧ Accepted (.rbPop 2) fresh :=
  ⟨⟨rfl, .inl rfl⟩, by decide, by decide, by decide, ⟨rfl, .inl rfl⟩, by decide, ⟨rfl, .inl rfl⟩⟩

/-- Room for exactly MAXPAY bytes, and for one fewer. -/
theorem witness_OccupancyQueries :
    fresh.fatal = false ∧ fresh.port = .fg ∧ fresh.tun.maxpay.toNat ≤ fresh.cfg.txCap - 1 - (1 + 8 - 0) % fresh.cfg.txCap
    ∧ fresh.cfg.txCap - 1 - (2 + 8 - 0) % fresh.cfg.txCap < fresh.tun.maxpay.toNat := by decide

theorem witness_RbResetZeroesBothCursors : FgReady { fresh with srx := ⟨5, 2⟩ } := ⟨rfl, rfl⟩

theorem witness_PushSlicePushesTheLongestPrefix :
    FgReady { fresh with stx := ⟨5, 0⟩ } ∧ ({ fresh with stx := ⟨5, 0⟩ } : State).bulk = none
    ∧ cursorsOk fresh.cfg.txCap ⟨5, 0⟩ = true ∧ ({ fresh with stx := ⟨5, 0⟩ } : State).ringFree .stx = 2 :=
  ⟨⟨rfl, rfl⟩, by decide⟩

theorem witness_PopIntoTakesTheOldest :
    FgReady { fresh with srx := ⟨1, 7⟩ } ∧ ({ fresh with srx := ⟨1, 7⟩ } : State).bulk = none
    ∧ cursorsOk fresh.cfg.rxCap ⟨1, 7⟩ = true := ⟨⟨rfl, rfl⟩, by decide⟩

/-- The smallest and the largest block size, and one between that is not supported. -/
theorem witness_SupportedMeansBijective :
    supported tc1 1 = true ∧ supported tc1 255 = true ∧ supported tc1 14 = false ∧ 1 ≤ 14 ∧ 14 ≤ 255 := by decide

theorem witness_IlvReads : FgReady fresh ∧ supported fresh.cfg 3 = true ∧ 23 < 8 * 3 ∧ 8 * 3 ≤ 24 ∧ 2 < 3 ∧ 3 ≤ 3 :=
  ⟨fresh_ready, by decide⟩

theorem witness_IlvSetbitChangesOneBit : FgReady fresh ∧ supported fresh.cfg 255 = true ∧ 2039 < 8 * 255 ∧ 8 * 255 ≤ 2040 :=
  ⟨fresh_ready, by decide⟩

theorem witness_IlvSetbyteScatters : FgReady fresh ∧ supported fresh.cfg 255 = true ∧ 254 < 255 ∧ 255 ≤ 255 :=
  ⟨fresh_ready, by decide⟩

theorem witness_DeinterleaveUndoesInterleave :
    supported tc1 3 = true ∧ ([0xA5, 0x3C, 0xF0] : List Byte).length = 3 ∧ 23 < 8 * 3 := by decide

theorem witness_FrmFrameBuildsTheFrame : FgReady fresh ∧ supported fresh.cfg fresh.cfg.fecK = true :=
  ⟨fresh_ready, by decide⟩

/-- A good frame, one whose LEN is one too large, and one the decoder refuses. -/
theorem witness_FrmDeframeDecodesRxb :
    FgReady (fresh.writeBytes .rxb 0 frameHi) ∧ supported fresh.cfg fresh.cfg.fecK = true
    ∧ (fresh.cfg.fecK < ((fresh.writeBytes .rxb 0 (frameHi.set 5 7)).rd .rxb 5).toNat)
    ∧ fecDecode fresh.cfg ((frameHi.set 7 0x11).drop 6) = .uncorrectable
    ∧ fecDecode fresh.cfg (frameHi.drop 6) = .ok [0x04, 0x01, 0x20, 0x20, 0x00, 0x0C] 0 :=
  ⟨⟨rfl, rfl⟩, by decide⟩

/-- The interleaved block of "Hi" (95_test_vectors 2.4). -/
def blockHi : List Byte := [0x04, 0x01, 0x20, 0x20, 0x00, 0x0C]

/-- The body of F_HI under TC2 with one flipped bit: byte 7 of the frame xor 08. -/
def bodyFlipped : List Byte := [0x04, 0x09, 0x20, 0x20, 0x00, 0x0C] ++ blockHi ++ blockHi

theorem witness_FramerRoundTrip_clean :
    tc1.wf = true ∧ supported tc1 tc1.fecK = true ∧ ([0x48, 0x69] : List Byte).length ≤ tc1.fecK
    ∧ (frame tc1 0 0 0x11 0x1234 [0x48, 0x69]).2 = blockHi ∧ FecClean tc1 blockHi :=
  ⟨by decide, by decide, by decide, by decide, show fecDecode _ _ = _ by decide⟩

/-- One flip under TC2, whose radius is one: FEC_CORRECT holds of this block and body, and says something. -/
theorem witness_FramerRoundTrip_correct :
    tc2.wf = true ∧ supported tc2 tc2.fecK = true ∧ (frame tc2 0 0 0x11 0x1234 [0x48, 0x69]).2 = blockHi
    ∧ bodyFlipped.length = tc2.fecN ∧ bitDistance bodyFlipped (fecEncode tc2 blockHi) = 1 ∧ tc2.fecT = 1
    ∧ FecCorrect tc2 blockHi bodyFlipped :=
  ⟨by decide, by decide, by decide, by decide, by decide, by decide, fun _ _ => by decide⟩

/-- One flip under TC1, whose radius is zero: FEC_DETECT holds of this block and body, and says something. -/
theorem witness_FramerRoundTrip_detect :
    ((frameHi.drop 6).set 1 0x11).length = tc1.fecN
    ∧ bitDistance ((frameHi.drop 6).set 1 0x11) (fecEncode tc1 blockHi) = 1 ∧ tc1.fecT = 0
    ∧ FecDetect tc1 blockHi ((frameHi.drop 6).set 1 0x11) :=
  ⟨by decide, by decide, by decide, fun _ => by decide⟩

/-- MAXPAY = 6: length 6 is taken, length 7 is not; an occupied slot. -/
theorem witness_SchSubmitFillsThePendingSlot :
    FgReady fresh ∧ 6 ≤ fresh.tun.maxpay.toNat ∧ fresh.tun.maxpay.toNat < 7 ∧ fresh.txPending = none
    ∧ ({ fresh with txPending := some ⟨0, []⟩ } : State).txPending ≠ none ∧ ((1 : Byte) ≠ 0 ∧ (1 : Byte) ≠ 2) :=
  ⟨fresh_ready, by decide⟩

theorem witness_RequestFlagCommands : FgReady { fresh with replyPending := some [0x4F], hbReq := true } := ⟨rfl, rfl⟩

/-- A tick that drains and delivers. -/
theorem witness_TickAlwaysCompletes :
    FgReady (hearing (some frameHello) true 0 true none (serialIn hello (asNode fresh))) ∧ fresh.cfg.wf = true
    ∧ supported fresh.cfg fresh.cfg.fecK = true := ⟨⟨rfl, rfl⟩, by decide⟩

/-- A packet of two bytes whose gap ends in this tick. -/
theorem witness_TickInOrder_quiet :
    let s : State :=
      { hearing none true 0 true none fresh with bridge := ⟨2, 1, 2⟩, tun := { fresh.tun with gapto := 2 } }
    FgReady s ∧ supported s.cfg s.cfg.fecK = true ∧ s.srx.insert = s.srx.remove
    ∧ draw s.env.answers.receive Config.drawReceive s.env.draws = (none, [], 0)
    ∧ (run .fg .schTick s).map (fun t => t.tickCond) = some 0x1000 := ⟨⟨rfl, rfl⟩, by decide, rfl, rfl, by decide⟩

/-- A tick that pops five bytes and delivers a frame of five (R241, R245): TICKCOND is RX_FRAME and RX_DELIVERED. -/
theorem witness_TickInOrder :
    let s : State := hearing (some frameHello) true 0 true none (serialIn hello (asNode fresh))
    FgReady s ∧ s.bulk = none ∧ supported s.cfg s.cfg.fecK = true ∧ cursorsOk s.cfg.rxCap s.srx = true
    ∧ s.receiveStep.1 = some hello
    ∧ (run .fg .schTick { s with tun := { s.tun with gapto := 9 } }).map
        (fun t => ((State.runBulk 12 t).tickCond, (State.runBulk 12 t).bulk)) = some (0x0009, none) :=
  ⟨⟨rfl, rfl⟩, rfl, by decide, by decide, by decide, by decide⟩

/-- The first micro-step of a tick, and a later one. -/
theorem witness_TickStepFrame :
    FgReady (serialIn hello fresh) ∧ supported fresh.cfg fresh.cfg.fecK = true
    ∧ (run .fg .schTick (serialIn hello fresh)).map (·.bulk) = some (some (.drain true))
    ∧ (Bulk.push true [0x48] 0).ofTick = true := ⟨⟨rfl, rfl⟩, by decide⟩

/-- A frame of 17 bytes, one of network 0x1235, one of this node's network. -/
theorem witness_ReceiveFiltersFrames :
    draw [none] Config.drawReceive 0 = (none, [], 0)
    ∧ draw [some frameHi] Config.drawReceive 0 = (some frameHi, [], 0)
    ∧ draw [] Config.drawReceive 0 = (Config.drawReceive 0, [], 1) ∧ (frameHi.take 17).length ≠ 6 + fresh.cfg.fecN ∧ frameHi.length = 6 + fresh.cfg.fecN
    ∧ ((frameHi.set 3 0x35).getD 3 0).toNat + 256 * ((frameHi.set 3 0x35).getD 4 0).toNat ≠ (asNode fresh).tun.netid.toNat
    ∧ (frameHi.getD 3 0).toNat + 256 * (frameHi.getD 4 0).toNat = (asNode fresh).tun.netid.toNat :=
  ⟨rfl, rfl, rfl, by decide⟩

/-- BadLength, Uncorrectable, and one frame of each kind of type. -/
theorem witness_ReceivedPacketsByType :
    deframe tc1 (frameHi.set 5 7) = .badLength ∧ deframe tc1 (frameHi.set 7 0x11) = .uncorrectable
    ∧ deframe tc1 frameHi = .ok ⟨0, 0, 0x11, 0x1234, [0x48, 0x69], 0, blockHi⟩
    ∧ deframe tc1 (frameHi.set 0 3) = .ok ⟨3, 0, 0x11, 0x1234, [0x48, 0x69], 0, blockHi⟩
    ∧ deframe tc1 (frameHi.set 0 1) = .ok ⟨1, 0, 0x11, 0x1234, [0x48, 0x69], 0, blockHi⟩
    ∧ deframe tc1 (frameHi.set 0 4) = .ok ⟨4, 0, 0x11, 0x1234, [0x48, 0x69], 0, blockHi⟩
    ∧ deframe tc1 frameAt = .ok ⟨2, 9, 0x11, 0x1234, [0x41, 0x54, 0x49], 0, [0x05, 0x04, 0x41, 0x00, 0x30, 0x04]⟩
    ∧ draw [some [0x4F, 0x4B]] Config.drawDispatch 0 = (some [0x4F, 0x4B], [], 0) :=
  ⟨by decide, by decide, by decide, by decide, by decide, by decide, by decide, rfl⟩

/-- F2 after F1 (95_test_vectors 2.6): one byte of six fits. -/
theorem witness_DeliveryPushesAndGoesOn :
    cursorsOk fresh.cfg.txCap ⟨6, 0⟩ = true ∧ ({ fresh with stx := ⟨6, 0⟩ } : State).ringFree .stx = 1 := by decide

/-- The last tick inside the window and the first beyond it; the last tick of a slot; a slot that stays and one that
goes round. -/
theorem witness_TimeAccounting :
    fresh.cfg.wf = true ∧ fresh.sch.slot.toNat < fresh.cfg.numSlots ∧ (99 : Half).toNat + 1 ≤ fresh.cfg.dcWindowTicks
    ∧ fresh.cfg.dcWindowTicks < (100 : Half).toNat + 1 ∧ (0 : Half).toNat + 1 < fresh.cfg.slotTicks
    ∧ fresh.cfg.slotTicks ≤ (1 : Half).toNat + 1 ∧ { tc1 with numSlots := 1 }.wf = true ∧ fresh.cfg.numSlots ≠ 1
    ∧ (0 : Byte).toNat = ((3 : Byte).toNat + 1) % fresh.cfg.numSlots := by decide

/-- An RSSI equal to the threshold is busy, one below it is clear (R251; 95_test_vectors 2.5). -/
theorem witness_ListenTick :
    draw [true] Config.drawChannelClear 0 = (true, [], 0) ∧ draw [50] Config.drawRssi 0 = (50, [], 0)
    ∧ ((50 : Byte) ≠ 0 ∧ (50 : Byte).toNat ≤ (50 : Byte).toNat) ∧ (49 : Byte).toNat < (50 : Byte).toNat :=
  ⟨rfl, rfl, by decide⟩

/-- Every source, with and without the ones before it; one credit left and none left. -/
theorem witness_CandidatePriorityAndCredit :
    ({ fresh with replyPending := some [0x4F] } : State).replyPending = some [0x4F]
    ∧ ({ fresh with hbReq := true } : State).replyPending = none
    ∧ ({ fresh with txPending := some ⟨0, [0x5A]⟩ } : State).hbReq = false
    ∧ (1 : Byte) ≠ 0 ∧ fresh.txPending = none := by decide

/-- Nothing pending; P4 ticks 7 and 9: budget for a first, not for a second transmission. -/
theorem witness_TransmitWindowBudget :
    fresh.chooseCandidate.1 = none
    ∧ ({ fresh with hbReq := true } : State).chooseCandidate.1.map (·.type) = some 1
    ∧ ((0 : Half).toNat + 1) * 100 ≤ (20 : Byte).toNat * (7 : Half).toNat
    ∧ (20 : Byte).toNat * (9 : Half).toNat < ((1 : Half).toNat + 1) * 100 := by decide

theorem witness_KeyedTransmission :
    draw [true] Config.drawTransmit 0 = (true, [], 0) ∧ draw [false] Config.drawTransmit 0 = (false, [], 0) :=
  ⟨rfl, rfl⟩

theorem witness_BackoffLastsItsInterval :
    fresh.cfg.wf = true
    ∧ ({ fresh with sch := { fresh.sch with state := .backoff, backoff := 1 } } : State).sch.state = .backoff
    ∧ 1 ≤ (1 : Half).toNat ∧ fresh.sch.backoff = 0 := by decide

/-- A step from LISTEN to TRANSMIT_WINDOW, a reset from TRANSMIT_WINDOW, and a state in TRANSMIT_WINDOW. -/
theorem witness_SchedulerTransitions :
    (stepped (presenting .fg 0x30000000 (hearing none true 0 true none fresh))).map (·.sch.state) = some .transmitWindow
    ∧ (stepped (presenting .fg 0x0F000000 (inWindow fresh))).map (·.sch.state) = some .listen
    ∧ (inWindow fresh).sch.state = .transmitWindow := by decide

/-- Every row of R261 that starts in LISTEN: busy, clear for long enough, not yet clear for long enough. -/
theorem witness_SchedulerTransitions_listen :
    (hearing none false 0 true none fresh).stateAction.sch.state = .backoff
    ∧ (hearing none true 25 true none { fresh with tun := { fresh.tun with lbt := 25 } }).stateAction.sch.state = .backoff
    ∧ (hearing none true 24 true none
        { fresh with tun := { fresh.tun with lbt := 25 } }).stateAction.sch.state = .transmitWindow
    ∧ (hearing none true 0 true none
        { fresh with cfg := { tc1 with minClearTicks := 2 } }).stateAction.sch.state = .listen := by decide

/-- Every row of R261 that starts in TRANSMIT_WINDOW or BACKOFF: nothing pending, data suppressed, no budget, sent, not
sent, waiting, done. -/
theorem witness_SchedulerTransitions_others :
    let s := hearing none true 0 true none (inWindow fresh)
    let data : State := { s with txPending := some ⟨0, hello⟩ }
    s.stateAction.sch.state = .listen
    ∧ { data with tun := { s.tun with peerNoRoom := true } }.stateAction.sch.state = .listen
    ∧ { data with tun := { s.tun with duty := 1 } }.stateAction.sch.state = .backoff
    ∧ data.stateAction.sch.state = .listen
    ∧ (hearing none true 0 false none data).stateAction.sch.state = .listen
    ∧ { s with sch := { s.sch with state := .backoff, backoff := 2 } }.stateAction.sch.state = .backoff
    ∧ { s with sch := { s.sch with state := .backoff, backoff := 1 } }.stateAction.sch.state = .listen := by decide

theorem witness_BrDrainFillsAndHandsOver :
    FgReady (serialIn hello fresh) ∧ (serialIn hello fresh).bulk = none
    ∧ cursorsOk fresh.cfg.rxCap (serialIn hello fresh).srx = true := ⟨⟨rfl, rfl⟩, by decide⟩

/-- A state in the middle of a tick's drain, with a packet pending and a reply queued, meets the invariant. -/
def midTick : State :=
  { serialIn hello fresh with
    bulk := some (.drain true)
    txPending := some ⟨0, hello⟩
    replyPending := some [0x4F, 0x4B]
    bridge := { fresh.bridge with buildLen := 5 }
    sch := { fresh.sch with state := .backoff, backoff := 1, dcTx := 1, dcElapsed := 1, slot := 3, slotTmr := 1 } }

theorem witness_EveryStepKeepsTheInvariant : Invariant midTick where
  cfg := by decide
  mem := by decide
  duty := by decide
  lbt := by decide
  maxpay := by decide
  slot := by decide
  slotTmr := by decide
  dcElapsed := by decide
  dcTx := by decide
  credit := by decide
  srx := by decide
  stx := by decide
  backoff := by decide
  buildLen := by decide
  txPending p h := by injection h with h; subst h; decide
  replyPending q h := by injection h with h; subst h; decide
  rxLen := by decide
  tickCond := by decide
  err := by decide
  ierr := by decide
  bulk := ⟨by decide, by decide, by decide⟩

theorem witness_ResetMeetsTheInvariant : tc1.wf = true ∧ tc2.wf = true := by decide

/-- P4: a keyed transmission at the limit of the budget, DUTY unchanged. -/
theorem witness_DutyCycleBound :
    let s :=
      presenting .fg 0x30000000
        (hearing none true 0 true none
          { inWindow fresh with
            hbReq := true
            tun := { fresh.tun with duty := 20 }
            sch := { (inWindow fresh).sch with dcTx := 2, dcElapsed := 14 } })
    s.cfg.wf = true ∧ DutyBound s
    ∧ (stepped s).map (fun t => (t.sch.dcTx, t.sch.dcElapsed, t.tun.duty)) = some (3, 15, 20) :=
  ⟨by decide, fun _ => by decide, by decide⟩

/-- DUTY is raised from 20 to 40 with a bound in force; from 0 to a percentage no bound need hold. -/
theorem witness_DutyCycleBound_raised :
    let s :=
      presenting .fg 0x08080028
        { fresh with tun := { fresh.tun with duty := 20 }, sch := { fresh.sch with dcTx := 2, dcElapsed := 10 } }
    s.cfg.wf = true ∧ DutyBound s ∧ (stepped s).map (·.tun.duty) = some 40 ∧ (20 : Byte) ≠ 0 :=
  ⟨by decide, fun _ => by decide, by decide⟩

/-- A state in TRANSMIT_WINDOW after a clear channel, whose next step transmits. -/
theorem witness_ListenBeforeTalkKept :
    let s :=
      presenting .fg 0x30000000
        (hearing none true 0 true none { inWindow fresh with hbReq := true, history := [.channelClear true, .readRssi 0] })
    ListenBeforeTalk s ∧ (stepped s).map (fun t => t.history.length) = some 4 := by
  refine ⟨⟨fun before rest radio ok h => ?_, fun _ => rfl⟩, by decide⟩
  obtain _ | ⟨a, _ | ⟨b, _ | ⟨c, before⟩⟩⟩ := before <;> simp [presenting, hearing, inWindow] at h

theorem witness_InterruptPortIsConfined :
    ({ fresh with port := .irq } : State).port = .irq
    ∧ (run .irq (.rbPush 0 0x41) fresh).map (·.srx.insert) = some 1 := by decide

theorem witness_OneWriterPerCursor :
    fresh.port = .fg ∧ (run .fg (.rbPush 1 0x41) fresh).map (·.stx) = some ⟨1, 0⟩ := by decide

/-- A counter one below its limit and one at it, and a step that counts. -/
theorem witness_CountersOnlySatInc :
    (0xFFFE : Half).toNat < 0xFFFF ∧ (0xFFFF : Half).toNat = 0xFFFF
    ∧ (stepped (presenting .irq 0x40000009 { fresh with srx := ⟨7, 0⟩, cnt := { fresh.cnt with rxOvf := 0xFFFF } })).map
        (·.cnt.rxOvf) = some 0xFFFF := by decide

end Sys2Proof.Tests
end

