-- ==== Sys2Proof/Proofs/Scope.lean ====
section
/-! SUPPORT. The statements on `spec/00_scope.md`: a step runs the presented command (R13, R104), and a backoff lasts exactly
its interval, which depends on the network id (R8, R258, R259). -/

namespace Sys2Proof.Machine

/-! ## The presented command -/

/-- With no bulk command in progress the next input is taken at once (R13). -/
theorem State.nextMove_command {s : State} {p : Port} {w : Word} {rest : List Input} (hb : s.bulk = none)
    (hp : s.env.program = .command p w :: rest) :
    s.nextMove = .command p w { s with env := { s.env with program := rest } } := by
  simp only [State.nextMove, hb, hp, State.takeInput]

/-- A step whose move is a command runs what its word decodes to (R104). -/
theorem step_command {s u : State} {p : Port} {w : Word} {i : Instr} (hm : s.nextMove = .command p w u)
    (hd : decode w = .ok i) : step s = exec i (u.onPort p) := by
  simp only [step, hm, hd]

/-! ## The interval of a backoff -/

theorem Config.wf_backoffFits {c : Config} (h : c.wf = true) : c.backoffFits = true := by
  simp only [Config.wf, Bool.and_eq_true] at h
  obtain ⟨⟨-, hb⟩, -⟩ := h
  exact hb

/-- `BackoffFn` tells two network ids apart: the external one by its constraint, the reference one ids 0 and 1, since its
span is at least 2 (R8, log 3). -/
theorem exists_backoffFn_ne {c : Config} (h : c.wf = true) :
    ∃ netid netid' slot retry, netid < 65536 ∧ netid' < 65536 ∧ slot < 256 ∧ retry < 256
      ∧ backoffFn c netid slot retry ≠ backoffFn c netid' slot retry := by
  have hb := Config.wf_backoffFits h
  unfold Config.backoffFits at hb
  unfold backoffFn
  cases hc : c.backoff with
  | external =>
    rw [hc] at hb
    obtain ⟨netid, slot, retry, hn, hs, hr, hne⟩ := Config.dependsOnNetid_iff.1 hb
    exact ⟨netid, 0, slot, retry, hn, by decide, hs, hr, hne⟩
  | reference span =>
    rw [hc] at hb
    simp only [Bool.and_eq_true, decide_eq_true_eq] at hb
    have h1 : 1 % span = 1 := Nat.mod_eq_of_lt hb.1
    exact ⟨0, 1, 0, 0, by decide, by decide, by decide, by decide, by simp [h1]⟩

/-! ## A BACKOFF tick -/

/-- While more than one tick is left, a BACKOFF tick takes one from the interval and changes nothing else (R259). -/
theorem State.backoffTick_of_one_lt {s : State} (h : 1 < s.sch.backoff.toNat) :
    s.backoffTick = { s with sch := { s.sch with backoff := s.sch.backoff - 1 } } := by
  have hsub : BitVec.ofNat 16 (s.sch.backoff.toNat - 1) = s.sch.backoff - 1 := by bv_omega
  have hpos : (s.sch.backoff - 1).toNat ≠ 0 := by bv_omega
  simp only [State.backoffTick, hsub, if_neg hpos]

/-- With at most one tick left, a BACKOFF tick ends the backoff (R259). -/
theorem State.backoffTick_of_le_one {s : State} (h : s.sch.backoff.toNat ≤ 1) :
    s.backoffTick = { s with sch := { s.sch with backoff := 0, state := .listen } } := by
  have hsub : s.sch.backoff.toNat - 1 = 0 := by omega
  simp [State.backoffTick, hsub, State.setSch]

/-- Fewer BACKOFF ticks than the interval only count it down. -/
theorem State.iterate_backoffTick_of_lt {s : State} {k : Nat} (hk : k < s.sch.backoff.toNat) :
    State.backoffTick^[k] s = { s with sch := { s.sch with backoff := s.sch.backoff - BitVec.ofNat 16 k } } := by
  induction k with
  | zero => simp
  | succ k ih =>
    have hleft : 1 < (s.sch.backoff - BitVec.ofNat 16 k).toNat := by bv_omega
    have hsub : s.sch.backoff - BitVec.ofNat 16 k - 1 = s.sch.backoff - BitVec.ofNat 16 (k + 1) := by bv_omega
    rw [Function.iterate_succ_apply', ih (by omega), State.backoffTick_of_one_lt hleft, hsub]

/-- As many BACKOFF ticks as the interval end the backoff: all but the last count down to one. -/
theorem State.iterate_backoffTick_interval {s : State} (h : 1 ≤ s.sch.backoff.toNat) :
    State.backoffTick^[s.sch.backoff.toNat] s =
      { s with sch := { s.sch with backoff := 0, state := .listen } } := by
  obtain ⟨k, hk⟩ := Nat.exists_eq_add_of_le' h
  have hlast : (s.sch.backoff - BitVec.ofNat 16 k).toNat ≤ 1 := by bv_omega
  rw [hk, Function.iterate_succ_apply', State.iterate_backoffTick_of_lt (by omega),
    State.backoffTick_of_le_one hlast]

end Sys2Proof.Machine

/-! ## The statements -/

namespace Sys2Proof.Proofs

open Sys2Proof.Machine

/-- Settles O51: the interval is positive because BackoffFn answers in 1..65535, and the ticks are counted by induction. -/
theorem backoffLastsItsInterval : Obligations.BackoffLastsItsInterval := by
  intro s hc
  refine ⟨⟨rfl, backoff_pos hc _ _ _⟩, exists_backoffFn_ne hc, fun _ hpos => ⟨fun k hk => ?_, ?_⟩, fun hz => ?_⟩
  · exact State.iterate_backoffTick_of_lt hk
  · exact State.iterate_backoffTick_interval hpos
  · rw [State.backoffTick_of_le_one (by simp [hz]), ← hz]

/-- Settles O5: the presented command is the next move, and its move runs `exec` on its port. -/
theorem stepRunsTheDecodedCommand : Obligations.StepRunsTheDecodedCommand :=
  fun _ _ _ _ _ hb hp hd => step_command (State.nextMove_command hb hp) hd

end Sys2Proof.Proofs
end

/-! SUPPORT. The statements on `spec/10_state.md`: STATUS is a view (R23), the reset state (R55, R371) and the invariant
of the whole machine (R56), which holds at reset and which every step keeps. -/

namespace Sys2Proof

/-- The operands of a decoded command fit their fields, since each is a field of the word (R102). -/
theorem decode_wellFormed {w : Word} {i : Instr} (h : decode w = .ok i) : i.wellFormed = true := by
  obtain ⟨-, ha, hb, hc, -, -, hidx, -⟩ := field_bounds w
  unfold decode at h
  split at h <;> simp only [zeroOr_eq_ok, Except.ok.injEq, reduceCtorEq] at h
  all_goals grind [Instr.wellFormed, fitsByte, fitsIdx]

/-- An operand that fits a byte field is a length a push or pop loop can have (R102). -/
theorem le_of_fitsByte {v : Nat} (h : fitsByte v = true) : v ≤ 255 := Nat.le_of_lt_succ (of_decide_eq_true h)

end Sys2Proof

namespace Sys2Proof.Machine

/-! ## STATUS (R23) -/

/-- A bit of a 16-bit word, read off the number it is built from. -/
theorem getLsbD_ofNat_eq {n k : Nat} {b : Bool} (hk : k < 16) (h : n / 2 ^ k % 2 = b.toNat) :
    (BitVec.ofNat 16 n).getLsbD k = b := by
  rw [BitVec.getLsbD_ofNat, Nat.testBit_eq_decide_div_mod_eq, h]
  cases b <;> simp [hk]

theorem SchState.number_le (st : SchState) : st.number ≤ 2 := by cases st <;> decide

/-! ## Reset (R55, R371) -/

theorem Config.hardware_wf : Config.hardware.wf = true := by
  unfold Config.hardware
  split
  · assumption
  · decide

/-- The reset state of a well-formed configuration meets the invariant: MAXPAY = FEC_K and CREDIT = CREDIT_MAX fit their
registers, the rest is 0, empty or none (R55, R56). -/
theorem invariant_resetWith {c : Config} (hc : c.wf = true) : Invariant (State.resetWith c) := by
  obtain ⟨⟨hk, hk'⟩, -⟩ := Config.wf_fec hc
  obtain ⟨⟨hslots, -⟩, hticks, -⟩ := Config.wf_slots hc
  obtain ⟨⟨hrx, -⟩, htx, -⟩ := Config.wf_rings hc
  have hcredit := Config.wf_credit hc
  have hmax : (BitVec.ofNat 8 c.fecK).toNat = c.fecK := by
    rw [BitVec.toNat_ofNat, Nat.mod_eq_of_lt (by omega)]
  have hcred : (BitVec.ofNat 8 c.creditMax).toNat = c.creditMax := by
    rw [BitVec.toNat_ofNat, Nat.mod_eq_of_lt (by omega)]
  exact
    { cfg := hc
      mem := List.Pairwise.nil
      duty := Nat.zero_le _
      lbt := .inl rfl
      maxpay := ⟨hmax.symm ▸ hk, hmax.le⟩
      slot := hslots
      slotTmr := hticks
      dcElapsed := Nat.zero_le _
      dcTx := Nat.zero_le _
      credit := hcred.le
      srx := cursorsOk_iff.2 ⟨show 0 < c.rxCap by omega, show 0 < c.rxCap by omega⟩
      stx := cursorsOk_iff.2 ⟨show 0 < c.txCap by omega, show 0 < c.txCap by omega⟩
      backoff := nofun
      buildLen := Nat.zero_le _
      txPending := nofun
      replyPending := nofun
      rxLen := Nat.zero_le _
      tickCond := Nat.two_pow_pos 13
      err := rfl
      ierr := rfl
      bulk := trivial }

/-- The reset state has the values of R371, for every configuration. -/
theorem hasResetValues_resetWith (c : Config) : HasResetValues (State.resetWith c) := by
  constructor <;> rfl

/-! ## The invariant but for its bulk clause

In the middle of a micro-step the command in progress need not meet `bulkOk`: a drain may just have filled the packet.
What holds there is the invariant of the state with no bulk command in progress. -/

/-- The invariant but for what it says of the bulk command in progress. -/
def RangesHold (s : State) : Prop := Invariant { s with bulk := none }

theorem Invariant.ranges {s : State} (h : Invariant s) : RangesHold s := { h with bulk := trivial }

theorem RangesHold.invariant {s : State} (h : RangesHold s) (hb : bulkOk s) : Invariant s := { h with bulk := hb }

theorem bulkOk_of_none {s : State} (h : s.bulk = none) : bulkOk s := by simp only [bulkOk, h]

/-! ## The operations of a command keep the invariant -/

section Operations

variable {s t : State}

theorem Invariant.setRegs (h : Invariant s) (p : Port) {r : PortRegs} (hr : legalErr r.err = true) :
    Invariant (s.setRegs p r) := by
  cases p
  · exact { h with err := hr }
  · exact { h with ierr := hr }

theorem Invariant.onlyErr (h : Invariant s) {code : Byte} (hc : legalErr code = true) : Invariant (onlyErr s code) :=
  h.setRegs s.port hc

theorem Invariant.done (h : Invariant s) : Invariant s.done := h.setRegs s.port rfl

theorem Invariant.answer (h : Invariant s) (v : Half) : Invariant (s.answer v) := h.setRegs s.port rfl

theorem ErrCode.legal (e : ErrCode) : legalErr e.code = true := by cases e <;> decide

/-- An error keeps the invariant where no bulk command is in progress: the fatal one sets the latch, and `bulkOk` asks
that it be clear. -/
theorem Invariant.raise (h : Invariant s) (hb : s.bulk = none) (e : ErrCode) : Invariant (s.raise e) :=
  { h.setRegs s.port (r := { s.regs s.port with err := e.code }) e.legal with
    bulk := bulkOk_of_none ((State.raise_bulk s e).trans hb) }

theorem Invariant.wr (h : Invariant s) (st : Store) (a : Nat) (v : Byte) : Invariant (s.wr st a v) :=
  { h with mem := Memory.store_wf h.mem _ v }

theorem Invariant.writeBytes (h : Invariant s) (st : Store) (a : Nat) (bs : List Byte) :
    Invariant (s.writeBytes st a bs) := by
  have hm := State.writeBytes_wf st bs a s h.mem
  rw [State.writeBytes_eq]
  exact { h with mem := hm }

theorem Invariant.countOverflow (h : Invariant s) (r : Ring) : Invariant (s.countOverflow r) := by
  cases r <;> exact { h with }

theorem Invariant.cursors (h : Invariant s) (r : Ring) : cursorsOk (s.cap r) (s.cursors r) = true := by
  cases r
  · exact h.srx
  · exact h.stx

theorem Invariant.setCursors (h : Invariant s) (r : Ring) {c : Cursors} (hc : cursorsOk (s.cap r) c = true) :
    Invariant (s.setCursors r c) := by
  cases r
  · exact { h with srx := hc }
  · exact { h with stx := hc }

theorem Invariant.ringPut (h : Invariant s) (r : Ring) (b : Byte) : Invariant (s.ringPut r b) := by
  have hc := State.ringPut_ok (h.cursors r) b
  rw [State.ringPut_cursors] at hc
  exact (h.wr r.storage (s.cursors r).insert b).setCursors r (by simpa using hc)

theorem Invariant.ringDrop (h : Invariant s) (r : Ring) : Invariant (s.ringDrop r) := by
  have hc := State.ringDrop_ok (h.cursors r)
  rw [State.ringDrop_cursors] at hc
  exact h.setCursors r hc

theorem Invariant.onPort (h : Invariant s) (p : Port) : Invariant (s.onPort p) := { h with }

theorem Invariant.softReset (h : Invariant s) : Invariant s.softReset :=
  { invariant_resetWith h.cfg with mem := h.mem }

theorem Invariant.hardwareReset (h : Invariant s) : Invariant s.hardwareReset :=
  { invariant_resetWith h.cfg with }

end Operations

/-! ## The parts of a tick keep it -/

section Tick

variable {s t : State}

/-- The receive step keeps RXLEN, TICKCOND, the reply and the memory in range (R243 to R246). -/
theorem RangesHold.of_receive (h : RangesHold s) (e : ReceiveEffect s t) : RangesHold t := by
  have hrx : t.rx.len.toNat ≤ s.cfg.fecK := by
    rcases e.rxLen with hr | hr
    · exact hr ▸ h.rxLen
    · exact hr
  have hreply : ∀ q, t.replyPending = some q → q.length ≤ 255 := by
    rcases e.reply with hr | ⟨q, hr, hq⟩ <;> rw [hr]
    · exact h.replyPending
    · rintro _ ⟨⟩
      exact hq
  have hmem := e.memWf h.mem
  have hcond := e.cond h.tickCond
  rw [e.same]
  exact { h with mem := hmem, rxLen := hrx, replyPending := hreply, tickCond := hcond }

theorem RangesHold.setCondIf (h : RangesHold s) (p : Bool) {b : Nat} (hb : b < 13) : RangesHold (s.setCondIf p b) := by
  cases p
  · exact h
  · exact h.of_receive (s.setCond_effect hb)

/-- The window counts this tick, so that one more transmission still fits it (R247). -/
theorem RangesHold.dutyWindow (h : RangesHold s) :
    RangesHold s.dutyWindow ∧ s.dutyWindow.sch.dcTx.toNat < s.dutyWindow.sch.dcElapsed.toNat := by
  have hle : s.sch.dcTx.toNat ≤ s.sch.dcElapsed.toNat := h.dcTx
  have hwin := (Config.wf_window h.cfg).1
  have key : s.dutyWindow.sch.dcTx.toNat < s.dutyWindow.sch.dcElapsed.toNat
      ∧ s.dutyWindow.sch.dcElapsed.toNat ≤ s.cfg.dcWindowTicks := by
    rcases State.dutyWindow_cases (s := s) h.cfg with ⟨hin, he, ht⟩ | ⟨-, he, ht⟩ <;> rw [he, ht]
    · exact ⟨by omega, hin⟩
    · exact ⟨by decide, hwin⟩
  refine ⟨?_, key.1⟩
  rw [State.dutyWindow_eq]
  exact { h with dcElapsed := key.2, dcTx := key.1.le }

theorem RangesHold.slotRotate (h : RangesHold s) : RangesHold s.slotRotate := by
  obtain ⟨hslot, htmr⟩ := State.slotRotate_range (s := s) h.cfg h.slot
  have hcond := State.slotRotate_cond (s := s) h.tickCond
  rw [State.slotRotate_eq]
  exact { h with slot := hslot, slotTmr := htmr, tickCond := hcond }

/-- A state action keeps the ranges where the window has room for the one transmission it may charge (R252 to R259). -/
theorem RangesHold.of_action (h : RangesHold s) (hroom : s.sch.dcTx.toNat < s.sch.dcElapsed.toNat)
    (e : ActionEffect s t) : RangesHold t := by
  have hdcTx : t.sch.dcTx.toNat ≤ s.sch.dcElapsed.toNat := by
    rcases e.charge with hc | ⟨hc, -⟩ <;> rw [hc]
    · exact hroom.le
    · exact (BitVec.toNat_ofNat ..).trans_le ((Nat.mod_le _ _).trans hroom)
  have htx : ∀ p, t.txPending = some p → p.payload.length ≤ s.cfg.fecK := by
    rcases e.txPending with hp | hp <;> rw [hp]
    · exact h.txPending
    · exact nofun
  have hreply : ∀ q, t.replyPending = some q → q.length ≤ 255 := by
    rcases e.reply with hr | hr <;> rw [hr]
    · exact h.replyPending
    · exact nofun
  have hmem := e.memWf h.mem
  have hcond := e.cond h.tickCond
  have hback := e.backoff h.cfg h.backoff
  have hcredit := e.credit.trans h.credit
  rw [e.same]
  exact
    { h with
      mem := hmem, dcTx := hdcTx, credit := hcredit, backoff := hback, txPending := htx, replyPending := hreply
      tickCond := hcond }

/-- The end of a tick keeps the invariant: T3 makes room in the window before T4 may transmit (R241). -/
theorem RangesHold.finishTick (h : RangesHold s) : Invariant s.finishTick := by
  obtain ⟨hwindow, hroom⟩ := h.dutyWindow
  have hroom' : s.dutyWindow.slotRotate.sch.dcTx.toNat < s.dutyWindow.slotRotate.sch.dcElapsed.toNat := by
    rw [State.slotRotate_eq]
    exact hroom
  exact { hwindow.slotRotate.of_action hroom' (State.stateAction_effect _) with err := rfl, bulk := trivial }

end Tick

/-! ## Every micro-step keeps it -/

section MicroStep

variable {s : State}

theorem RangesHold.finishBulk (h : RangesHold s) (v : Half) {err : Byte} (he : legalErr err = true) :
    Invariant (s.finishBulk v err) := { h with err := he }

theorem RangesHold.ringPut_stx (h : RangesHold s) (b : Byte) : RangesHold (s.ringPut .stx b) :=
  Invariant.ringPut h .stx b

theorem RangesHold.countOverflow_stx (h : RangesHold s) : RangesHold (s.countOverflow .stx) :=
  Invariant.countOverflow h .stx

theorem RangesHold.ringDrop_srx (h : RangesHold s) : RangesHold (s.ringDrop .srx) := Invariant.ringDrop h .srx

theorem RangesHold.endPush (h : RangesHold s) (inTick full : Bool) (count : Nat) :
    Invariant (s.endPush inTick full count) := by
  unfold State.endPush
  cases inTick
  · exact h.finishBulk _ (by cases full <;> decide)
  · exact ((h.setCondIf true (b := condRxDelivered) (by decide)).setCondIf full (by decide)).finishTick

/-- One micro-step of a push loop (R160): what is left to push gets shorter. -/
theorem RangesHold.pushStep (h : RangesHold s) (hf : s.fatal = false) {inTick : Bool} {rest : List Byte} {count : Nat}
    (hlen : rest.length + count ≤ 255) (hsup : inTick = true → supported s.cfg s.cfg.fecK = true) :
    Invariant (s.pushStep inTick rest count) := by
  unfold State.pushStep
  cases rest with
  | nil => exact h.endPush inTick false count
  | cons b more =>
    dsimp only
    rcases s.tryPush_cases .stx b with ⟨-, e⟩ | ⟨-, e⟩ <;> rw [e] <;> dsimp only
    · exact h.countOverflow_stx.endPush inTick true count
    · split
      · exact (h.ringPut_stx b).endPush inTick false (count + 1)
      · rename_i hmore
        rw [List.length_cons] at hlen
        exact { h.ringPut_stx b with bulk := ⟨hf, hmore, by omega, hsup⟩ }

/-- One micro-step of a pop loop (R161). -/
theorem RangesHold.popStep (h : RangesHold s) (hf : s.fatal = false) {max : Nat} (hmax : max ≤ 255) (count : Nat) :
    Invariant (s.popStep max count) := by
  unfold State.popStep
  split
  · exact h.finishBulk _ rfl
  · rcases s.tryPop_cases .srx with ⟨-, e⟩ | ⟨-, e⟩ <;> rw [e] <;> dsimp only
    · exact h.finishBulk _ rfl
    · have hw : ∀ b, RangesHold ((s.ringDrop .srx).wr .pay count b) := fun b =>
        Invariant.wr h.ringDrop_srx .pay count b
      split
      · exact (hw _).finishBulk _ rfl
      · exact { hw _ with bulk := ⟨hf, by omega, hmax⟩ }

/-- T2 to T4 of a tick (R241): a payload to deliver fits one frame. -/
theorem RangesHold.tickReceive (h : RangesHold s) (hf : s.fatal = false) (hsup : supported s.cfg s.cfg.fecK = true)
    (popped : Bool) : Invariant (s.tickReceive popped) := by
  have heff := s.receiveStep_effect
  have hpay := @State.receiveStep_payload s
  have hk := (Config.wf_fec h.cfg).1.2
  unfold State.tickReceive
  generalize s.receiveStep = step at *
  obtain ⟨delivery, t⟩ := step
  have hsame := heff.same
  dsimp only at hsame
  have ht : RangesHold t := h.of_receive heff
  have hcfg : t.cfg = s.cfg := by rw [hsame]
  have hfatal : t.fatal = false := by rw [hsame]; exact hf
  cases delivery with
  | none => exact ht.finishTick
  | some payload =>
    have hlen : payload.length ≤ 255 := (hpay rfl).trans hk
    dsimp only
    split
    · rename_i hne
      exact { ht with bulk := ⟨hfatal, by rintro rfl; simp at hne, hlen, fun _ => hcfg ▸ hsup⟩ }
    · exact ht.pushStep hfatal hlen fun _ => hcfg ▸ hsup

/-- The handover empties the build buffer into the pending slot: its packet fits one frame (R302). -/
theorem RangesHold.handover (h : RangesHold s) : RangesHold s.handover :=
  { h with
    buildLen := Nat.zero_le _
    txPending := by
      rintro _ ⟨⟩
      exact (State.readBytes_length ..).trans_le h.buildLen }

/-- The end of a drain (R302, R307, R241). -/
theorem RangesHold.endDrain (h : RangesHold s) (hf : s.fatal = false) {inTick : Bool}
    (hsup : inTick = true → supported s.cfg s.cfg.fecK = true) (popped : Bool) :
    Invariant (s.endDrain inTick popped) := by
  have hh : RangesHold (if s.handoverReady then s.handover else s)
      ∧ (if s.handoverReady then s.handover else s).fatal = s.fatal
      ∧ (if s.handoverReady then s.handover else s).cfg = s.cfg := by
    split
    · exact ⟨h.handover, rfl, rfl⟩
    · exact ⟨h, rfl, rfl⟩
  unfold State.endDrain
  dsimp only
  generalize (if s.handoverReady then s.handover else s) = t at hh ⊢
  obtain ⟨ht, hfatal, hcfg⟩ := hh
  cases inTick
  · exact ht.finishBulk _ rfl
  · exact (ht.setCondIf s.handoverReady (b := condHandover) (by decide)).tickReceive (by simp [hfatal, hf])
      (by simpa [hcfg] using hsup) popped

/-- One micro-step of a drain (R301): it goes on only while the packet is not full. -/
theorem RangesHold.drainStep (h : RangesHold s) (hf : s.fatal = false) {inTick : Bool}
    (hsup : inTick = true → supported s.cfg s.cfg.fecK = true) : Invariant (s.drainStep inTick) := by
  have hmax : s.tun.maxpay.toNat ≤ s.cfg.fecK := h.maxpay.2
  unfold State.drainStep
  split
  · exact h.endDrain hf hsup false
  · rcases s.tryPop_cases .srx with ⟨-, e⟩ | ⟨-, e⟩ <;> rw [e] <;> dsimp only
    · exact h.endDrain hf hsup true
    · have hbuild : ∀ b, RangesHold ((s.ringDrop .srx).appendBuild b) := fun b =>
        { Invariant.wr h.ringDrop_srx .build s.bridge.buildLen b with
          buildLen := show s.bridge.buildLen + 1 ≤ s.cfg.fecK by omega }
      split
      · exact (hbuild _).endDrain hf hsup true
      · rename_i hroom
        exact { hbuild _ with bulk := ⟨hf, Nat.lt_of_not_le hroom, hsup⟩ }

/-- One micro-step of the bulk command in progress (R82). -/
theorem Invariant.microStep (h : Invariant s) : Invariant s.microStep := by
  have hbulk := h.bulk
  unfold State.microStep
  unfold bulkOk at hbulk
  cases hb : s.bulk with
  | none => exact h
  | some b =>
    rw [hb] at hbulk
    cases b with
    | push inTick rest count =>
      obtain ⟨hf, -, hlen, hsup⟩ := hbulk
      exact h.ranges.pushStep hf hlen hsup
    | pop max count =>
      obtain ⟨hf, -, hmax⟩ := hbulk
      exact h.ranges.popStep hf hmax count
    | drain inTick =>
      obtain ⟨hf, -, hsup⟩ := hbulk
      exact h.ranges.drainStep hf hsup

end MicroStep

/-! ## Every command keeps it -/

section Commands

variable {s t : State}

/-- A gate keeps the invariant if its Operation does: a refusal writes ERR only (R104). -/
theorem Invariant.gate (h : Invariant s) {i : Instr} {op : State → State} (hop : Accepted i s → Invariant (op s))
    (he : gate i op s = .next t) : Invariant t := by
  obtain ⟨-, rfl⟩ | ⟨-, -, -, rfl⟩ | ⟨ha, rfl⟩ := gate_cases he
  · exact h.onlyErr rfl
  · exact h.onlyErr rfl
  · exact hop ha

/-- A command that is not exempt runs its Operation only while FATAL is clear. -/
theorem Accepted.not_fatal {i : Instr} (ha : Accepted i s) (hi : exemptWhenFatal i = false) : s.fatal = false :=
  ha.2.resolve_right (by simp [hi])

/-- A command on IRQCMD writes its result pair, a counter, and one byte and one cursor of a ring (R351). -/
theorem Invariant.of_exec_irq (h : Invariant s) (hp : s.port = .irq) {i : Instr} (he : exec i s = .next t) :
    Invariant t := by
  obtain ⟨code, hc, rfl⟩ | ⟨v, rfl⟩ | ⟨b, -, rfl⟩ | ⟨-, rfl⟩ | ⟨-, rfl⟩ := irq_cases hp he
  · exact h.onlyErr hc
  · exact h.answer v
  · exact (h.ringPut .srx b).answer 1
  · exact (h.countOverflow .srx).setRegs .irq rfl
  · exact (h.ringDrop .stx).answer _

/-- The interleaver's checks, then an operation that keeps the invariant (R193). -/
theorem Invariant.ilvCheck (h : Invariant s) (hb : s.bulk = none) {op : State → State} (hop : Invariant (op s))
    (n : Nat) (inRange : Bool) : Invariant (s.ilvCheck n inRange op) := by
  unfold State.ilvCheck
  split
  · exact h.raise hb _
  · split
    · exact h.raise hb _
    · exact hop

theorem Invariant.setBlkBit (h : Invariant s) (p : Nat) (v : Bool) : Invariant (s.setBlkBit p v) := h.wr _ _ _

theorem Invariant.scatterBlk (h : Invariant s) (n k : Nat) (val : Byte) : Invariant (s.scatterBlk n k val) :=
  List.foldlRecOn _ _ h fun _ ht _ _ => ht.setBlkBit _ _

/-- The ring operand's range check, then an operation that keeps the invariant (R107). -/
theorem Invariant.withRing (h : Invariant s) (hb : s.bulk = none) {op : Ring → State → State}
    (hop : ∀ r, Invariant (op r s)) (ring : Nat) : Invariant (s.withRing ring op) := by
  unfold State.withRing
  split
  · exact hop _
  · exact h.raise hb _

theorem clampDuty_le (v : Half) : (clampDuty v).toNat ≤ 100 := by
  rw [clampDuty, BitVec.toNat_ofNat]
  omega

theorem clampLbt_range (v : Half) :
    (clampLbt v).toNat = 0 ∨ (25 ≤ (clampLbt v).toNat ∧ (clampLbt v).toNat ≤ 220) := by
  unfold clampLbt
  split_ifs with h0 h25 h220
  · exact .inl rfl
  · exact .inr (by decide)
  · rw [BitVec.toNat_ofNat]
    omega
  · exact .inr (by decide)

theorem clampMaxpay_range {k : Nat} (hk : 1 ≤ k ∧ k ≤ 255) (v : Half) :
    1 ≤ (clampMaxpay k v).toNat ∧ (clampMaxpay k v).toNat ≤ k := by
  rw [clampMaxpay, BitVec.toNat_ofNat]
  omega

/-- A write of PEERNOROOM reloads CREDIT with CREDIT_MAX or leaves it (R39, R306). -/
theorem RangesHold.setPeerNoRoom (h : RangesHold s) (v : Bool) : RangesHold (s.setPeerNoRoom v) := by
  cases v
  · exact { h with credit := (BitVec.toNat_ofNat ..).trans_le (Nat.mod_le _ _) }
  · exact { h with }

/-- Every write of CFG.WR is clamped into its register's range (R31, R134). -/
theorem RangesHold.setCsr (h : RangesHold s) {r : Nat} {v : Half} {u : State} (hu : s.setCsr r v = some u) :
    RangesHold u := by
  unfold State.setCsr at hu
  split at hu <;> cases hu
  · exact { h with duty := clampDuty_le v }
  · exact { h with lbt := clampLbt_range v }
  · exact { h with }
  · exact { h with maxpay := clampMaxpay_range (Config.wf_fec h.cfg).1 v }
  · exact { h with }
  · exact { h with }
  · exact h.setPeerNoRoom _

theorem State.setCsr_bulk {r : Nat} {v : Half} {u : State} (hu : s.setCsr r v = some u) : u.bulk = s.bulk := by
  unfold State.setCsr at hu
  split at hu <;> cases hu <;> rfl

/-- The bridge timer changes GAPTMR only (R300). -/
theorem State.bridgeTimer_eq (s : State) :
    s.bridgeTimer = { s with bridge := { s.bridge with gapTmr := s.bridgeTimer.bridge.gapTmr } } := by
  unfold State.bridgeTimer
  split <;> rfl

theorem RangesHold.bridgeTimer (h : RangesHold s) : RangesHold s.bridgeTimer := by
  rw [State.bridgeTimer_eq]
  exact { h with }

/-! One lemma per command: what its Operation writes lies in range. Those that may raise InvalidBlockSize or change what
`bulkOk` reads need that no bulk command is in progress; the three with a length need that it fits a byte. -/

theorem Invariant.of_execNop (h : Invariant s) (he : execNop s = .next t) : Invariant t := by
  unfold execNop at he
  exact h.gate (fun _ => h.done) he

theorem Invariant.of_execMemRd (h : Invariant s) (hb : s.bulk = none) {sp addr : Nat}
    (he : execMemRd sp addr s = .next t) : Invariant t := by
  unfold execMemRd at he
  refine h.gate (fun _ => ?_) he
  split
  · exact h.answer _
  · exact h.raise hb _

theorem Invariant.of_execMemWr (h : Invariant s) (hb : s.bulk = none) {sp addr : Nat} {val : Byte}
    (he : execMemWr sp addr val s = .next t) : Invariant t := by
  unfold execMemWr at he
  refine h.gate (fun _ => ?_) he
  split
  · exact (h.wr _ _ _).done
  · exact h.raise hb _

theorem Invariant.of_execCfgWr (h : Invariant s) (hb : s.bulk = none) {r : Nat} {imm : Half}
    (he : execCfgWr r imm s = .next t) : Invariant t := by
  unfold execCfgWr at he
  refine h.gate (fun _ => ?_) he
  split
  · rename_i u hu
    exact ((h.ranges.setCsr hu).invariant (bulkOk_of_none ((State.setCsr_bulk hu).trans hb))).done
  · exact h.raise hb _

theorem Invariant.of_execCfgRd (h : Invariant s) (hb : s.bulk = none) {r : Nat}
    (he : execCfgRd r s = .next t) : Invariant t := by
  unfold execCfgRd at he
  refine h.gate (fun _ => ?_) he
  split
  · exact h.answer _
  · exact h.raise hb _

theorem Invariant.of_execCtlReset (h : Invariant s) (he : execCtlReset s = .next t) : Invariant t := by
  unfold execCtlReset at he
  exact h.gate (fun _ => h.softReset) he

theorem Invariant.of_execIlvGetbit (h : Invariant s) (hb : s.bulk = none) {n idx : Nat}
    (he : execIlvGetbit n idx s = .next t) : Invariant t := by
  unfold execIlvGetbit at he
  exact h.gate (fun _ => h.ilvCheck hb (h.answer _) n _) he

theorem Invariant.of_execIlvSetbit (h : Invariant s) (hb : s.bulk = none) {n : Nat} {v : Bool} {idx : Nat}
    (he : execIlvSetbit n v idx s = .next t) : Invariant t := by
  unfold execIlvSetbit at he
  exact h.gate (fun _ => h.ilvCheck hb (h.setBlkBit _ v).done n _) he

theorem Invariant.of_execIlvGetbyte (h : Invariant s) (hb : s.bulk = none) {n k : Nat}
    (he : execIlvGetbyte n k s = .next t) : Invariant t := by
  unfold execIlvGetbyte at he
  exact h.gate (fun _ => h.ilvCheck hb (h.answer _) n _) he

theorem Invariant.of_execIlvSetbyte (h : Invariant s) (hb : s.bulk = none) {n k : Nat} {val : Byte}
    (he : execIlvSetbyte n k val s = .next t) : Invariant t := by
  unfold execIlvSetbyte at he
  refine h.gate (fun _ => h.ilvCheck hb ?_ n _) he
  exact (h.scatterBlk n k val).done

theorem Invariant.of_execIlvPhys (h : Invariant s) (hb : s.bulk = none) {n idx : Nat}
    (he : execIlvPhys n idx s = .next t) : Invariant t := by
  unfold execIlvPhys at he
  exact h.gate (fun _ => h.ilvCheck hb (h.answer _) n _) he

theorem Invariant.of_execFrmFrame (h : Invariant s) (hb : s.bulk = none) {type : Byte} {len : Nat}
    (he : execFrmFrame type len s = .next t) : Invariant t := by
  unfold execFrmFrame at he
  refine h.gate (fun _ => ?_) he
  split
  · exact h.raise hb _
  · exact ((h.writeBytes .blk 0 _).writeBytes .txb 0 _).answer _

theorem Invariant.of_execFrmDeframe (h : Invariant s) (hb : s.bulk = none)
    (he : execFrmDeframe s = .next t) : Invariant t := by
  unfold execFrmDeframe at he
  refine h.gate (fun _ => ?_) he
  split
  · exact h.raise hb _
  · split
    · exact h.raise hb _
    · exact h.raise hb _
    · rename_i d hd
      have hlen := deframe_ok_lengths hd
      have hst := State.storeDeframed_effect hlen.1 hlen.2
      exact ((h.ranges.of_receive hst).invariant
        (bulkOk_of_none ((congrArg State.bulk hst.same).trans hb))).answer _

theorem Invariant.of_execSchTick (h : Invariant s) (hb : s.bulk = none)
    (he : execSchTick s = .next t) : Invariant t := by
  unfold execSchTick at he
  refine h.gate (fun ha => ?_) he
  split
  · exact h.raise hb _
  · rename_i hsup
    have hr : RangesHold { s with tickCond := 0 } := { h.ranges with tickCond := Nat.two_pow_pos 13 }
    refine hr.bridgeTimer.drainStep ?_ fun _ => ?_ <;> rw [State.bridgeTimer_eq]
    · exact ha.not_fatal rfl
    · simpa using hsup

theorem Invariant.of_execSchHbreq (h : Invariant s) (he : execSchHbreq s = .next t) : Invariant t := by
  unfold execSchHbreq at he
  exact h.gate (fun _ => Invariant.done (s := { s with hbReq := true }) { h with }) he

theorem Invariant.of_execSchHbclr (h : Invariant s) (he : execSchHbclr s = .next t) : Invariant t := by
  unfold execSchHbclr at he
  exact h.gate (fun _ => Invariant.done (s := { s with hbReq := false }) { h with }) he

theorem Invariant.of_execSchSubmit (h : Invariant s) (hb : s.bulk = none) {type : Byte} {len : Nat}
    (he : execSchSubmit type len s = .next t) : Invariant t := by
  unfold execSchSubmit at he
  refine h.gate (fun _ => ?_) he
  split
  · exact h.raise hb _
  · split
    · exact h.raise hb _
    · rename_i hlen _
      have hfit : len ≤ s.cfg.fecK := (not_lt.1 fun hlt => hlen (.inr hlt)).trans h.maxpay.2
      refine Invariant.done (s := { s with txPending := some ⟨type, s.readBytes .pay len⟩ })
        { h with txPending := ?_ }
      rintro _ ⟨⟩
      exact (State.readBytes_length ..).trans_le hfit

theorem Invariant.of_execSchRpclr (h : Invariant s) (he : execSchRpclr s = .next t) : Invariant t := by
  unfold execSchRpclr at he
  exact h.gate (fun _ => Invariant.done (s := { s with replyPending := none }) { h with replyPending := nofun }) he

theorem Invariant.of_execRbPush (h : Invariant s) (hb : s.bulk = none) {ring : Nat} {byte : Byte}
    (he : execRbPush ring byte s = .next t) : Invariant t := by
  unfold execRbPush at he
  refine h.gate (fun _ => h.withRing hb (fun r => ?_) ring) he
  rcases s.tryPush_cases r byte with ⟨-, e⟩ | ⟨-, e⟩ <;> rw [e]
  · exact (h.countOverflow r).setRegs _ rfl
  · exact (h.ringPut r byte).answer 1

theorem Invariant.of_execRbPop (h : Invariant s) (hb : s.bulk = none) {ring : Nat}
    (he : execRbPop ring s = .next t) : Invariant t := by
  unfold execRbPop at he
  refine h.gate (fun _ => h.withRing hb (fun r => ?_) ring) he
  rcases s.tryPop_cases r with ⟨-, e⟩ | ⟨-, e⟩ <;> rw [e]
  · exact h.raise hb _
  · exact (h.ringDrop r).answer _

theorem Invariant.of_execRbPeek (h : Invariant s) (hb : s.bulk = none) {ring offset : Nat}
    (he : execRbPeek ring offset s = .next t) : Invariant t := by
  unfold execRbPeek at he
  refine h.gate (fun _ => h.withRing hb (fun r => ?_) ring) he
  split
  · exact h.raise hb _
  · exact h.answer _

theorem Invariant.of_execRbFree (h : Invariant s) (hb : s.bulk = none) {ring : Nat}
    (he : execRbFree ring s = .next t) : Invariant t := by
  unfold execRbFree at he
  exact h.gate (fun _ => h.withRing hb (fun _ => h.answer _) ring) he

theorem Invariant.of_execRbUsed (h : Invariant s) (hb : s.bulk = none) {ring : Nat}
    (he : execRbUsed ring s = .next t) : Invariant t := by
  unfold execRbUsed at he
  exact h.gate (fun _ => h.withRing hb (fun _ => h.answer _) ring) he

theorem Invariant.of_execRbReset (h : Invariant s) (hb : s.bulk = none) {ring : Nat}
    (he : execRbReset ring s = .next t) : Invariant t := by
  unfold execRbReset at he
  refine h.gate (fun _ => h.withRing hb (fun r => (h.setCursors r ?_).done) ring) he
  obtain ⟨hi, -⟩ := cursorsOk_iff.1 (h.cursors r)
  exact cursorsOk_iff.2 ⟨Nat.zero_lt_of_lt hi, Nat.zero_lt_of_lt hi⟩

theorem Invariant.of_execRbPushs (h : Invariant s) (hb : s.bulk = none) {ring len : Nat} (hlen : len ≤ 255)
    (he : execRbPushs ring len s = .next t) : Invariant t := by
  unfold execRbPushs at he
  exact h.gate (fun ha => h.withRing hb
    (fun _ => h.ranges.pushStep (inTick := false) (ha.not_fatal rfl) (by simpa using hlen) nofun) ring) he

theorem Invariant.of_execRbPops (h : Invariant s) (hb : s.bulk = none) {ring max : Nat} (hmax : max ≤ 255)
    (he : execRbPops ring max s = .next t) : Invariant t := by
  unfold execRbPops at he
  exact h.gate (fun ha => h.withRing hb (fun _ => h.ranges.popStep (ha.not_fatal rfl) hmax 0) ring) he

theorem Invariant.of_execBrDrain (h : Invariant s) (he : execBrDrain s = .next t) : Invariant t := by
  unfold execBrDrain at he
  exact h.gate (fun ha => h.ranges.drainStep (inTick := false) (ha.not_fatal rfl) nofun) he

theorem Invariant.of_execBrRoom (h : Invariant s) (he : execBrRoom s = .next t) : Invariant t := by
  unfold execBrRoom at he
  exact h.gate (fun _ => h.answer _) he

theorem Invariant.of_execBrDeliver (h : Invariant s) {len : Nat} (hlen : len ≤ 255)
    (he : execBrDeliver len s = .next t) : Invariant t := by
  unfold execBrDeliver at he
  exact h.gate (fun ha => h.ranges.pushStep (inTick := false) (ha.not_fatal rfl) (by simpa using hlen) nofun) he

/-- A command on FGCMD, where no bulk command is in progress. -/
theorem Invariant.of_exec_fg (h : Invariant s) (hb : s.bulk = none) {i : Instr} (hw : i.wellFormed = true)
    (he : exec i s = .next t) : Invariant t := by
  cases i with
  | nop => exact h.of_execNop he
  | memRd sp addr => exact h.of_execMemRd hb he
  | memWr sp addr val => exact h.of_execMemWr hb he
  | cfgWr r imm => exact h.of_execCfgWr hb he
  | cfgRd r => exact h.of_execCfgRd hb he
  | ctlReset => exact h.of_execCtlReset he
  | ilvGetbit n idx => exact h.of_execIlvGetbit hb he
  | ilvSetbit n v idx => exact h.of_execIlvSetbit hb he
  | ilvGetbyte n k => exact h.of_execIlvGetbyte hb he
  | ilvSetbyte n k val => exact h.of_execIlvSetbyte hb he
  | ilvPhys n idx => exact h.of_execIlvPhys hb he
  | frmFrame type len => exact h.of_execFrmFrame hb he
  | frmDeframe => exact h.of_execFrmDeframe hb he
  | schTick => exact h.of_execSchTick hb he
  | schHbreq => exact h.of_execSchHbreq he
  | schHbclr => exact h.of_execSchHbclr he
  | schSubmit type len => exact h.of_execSchSubmit hb he
  | schRpclr => exact h.of_execSchRpclr he
  | rbPush ring byte => exact h.of_execRbPush hb he
  | rbPop ring => exact h.of_execRbPop hb he
  | rbPeek ring offset => exact h.of_execRbPeek hb he
  | rbFree ring => exact h.of_execRbFree hb he
  | rbUsed ring => exact h.of_execRbUsed hb he
  | rbReset ring => exact h.of_execRbReset hb he
  | rbPushs ring len => exact h.of_execRbPushs hb (le_of_fitsByte (Bool.and_eq_true_iff.1 hw).2) he
  | rbPops ring max => exact h.of_execRbPops hb (le_of_fitsByte (Bool.and_eq_true_iff.1 hw).2) he
  | brDrain => exact h.of_execBrDrain he
  | brRoom => exact h.of_execBrRoom he
  | brDeliver len => exact h.of_execBrDeliver (le_of_fitsByte hw) he

end Commands

/-! ## Every step keeps it -/

/-- Choosing a move keeps the invariant: it only uses up inputs. -/
theorem Invariant.nextMove {s : State} (h : Invariant s) : Invariant s.nextMove.state := by
  obtain ⟨program, preempt, e⟩ := s.nextMove_state
  rw [e]
  exact { h with }

/-- A foreground command is accepted only where no bulk command is in progress (R100). -/
theorem State.nextMove_fg_bulk {s u : State} {w : Word} (hm : s.nextMove = .command .fg w u) : u.bulk = none := by
  obtain ⟨program, preempt, e⟩ := s.nextMove_state
  rw [hm] at e
  change u = _ at e
  rw [e]
  exact (s.nextMove_bulk).1 w u hm

/-- Every step keeps the invariant: an idle step, a micro-step, a reset, a command on either port, an illegal word. -/
theorem Invariant.step {s t : State} (h : Invariant s) (hs : step s = .next t) : Invariant t := by
  have hmove := h.nextMove
  obtain ⟨u, hm, rfl⟩ | ⟨u, hm, rfl⟩ | ⟨u, hm, rfl⟩ | ⟨p, w, u, i, hm, hd, he⟩ | ⟨p, w, u, e, hm, -, rfl⟩ :=
    step_cases hs <;> rw [hm] at hmove
  · exact hmove
  · exact Invariant.microStep hmove
  · exact Invariant.hardwareReset hmove
  · cases p with
    | fg =>
      have hb : u.bulk = none := State.nextMove_fg_bulk hm
      exact (Invariant.onPort hmove .fg).of_exec_fg hb (decode_wellFormed hd) he
    | irq => exact (Invariant.onPort hmove .irq).of_exec_irq rfl he
  · rw [State.illegal_eq]
    exact (Invariant.onPort hmove p).onlyErr rfl

end Sys2Proof.Machine

namespace Sys2Proof.Proofs

open Sys2Proof.Machine

/-- Settles O19: STATUS is a sum of its pieces at distinct powers of two, so each bit is read off the sum. -/
theorem statusIsAView : Obligations.StatusIsAView := by
  intro s
  have hnum := s.sch.state.number_le
  have h0 := s.fatal.toNat_le
  have h3 := s.txPending.isSome.toNat_le
  have h4 := s.replyPending.isSome.toNat_le
  have h5 := s.hbReq.toNat_le
  have h6 := s.tun.peerNoRoom.toNat_le
  have h7 := (decide (0 < s.bridge.buildLen)).toNat_le
  refine ⟨getLsbD_ofNat_eq (by decide) ?_, .trans (b := s.sch.state.number) ?number (by cases s.sch.state <;> rfl),
    getLsbD_ofNat_eq (by decide) ?_, getLsbD_ofNat_eq (by decide) ?_, getLsbD_ofNat_eq (by decide) ?_,
    getLsbD_ofNat_eq (by decide) ?_, getLsbD_ofNat_eq (by decide) ?_, ?upper⟩
  case number | upper =>
    rw [statusWord, BitVec.toNat_ofNat]
    omega
  all_goals omega

/-- Settles O55: the reset state of any well-formed configuration, of which the hardware's is one. -/
theorem resetMeetsTheInvariant : Obligations.ResetMeetsTheInvariant :=
  ⟨⟨invariant_resetWith Config.hardware_wf, hasResetValues_resetWith _, rfl⟩,
    fun c hc => ⟨invariant_resetWith hc, hasResetValues_resetWith c, rfl, rfl⟩⟩

/-- Settles O54, by the five kinds of step: idle, micro-step, reset, command, illegal word. -/
theorem everyStepKeepsTheInvariant : Obligations.EveryStepKeepsTheInvariant := fun _ _ h hs => h.step hs

end Sys2Proof.Proofs

/-! SUPPORT. The statements on `spec/20_memory.md`: which input goes before the bulk command in progress (R82, R85), and that
the foreground moves neither of the cursors that belong to the interrupt port (R86, R152). -/

namespace Sys2Proof.Machine

/-! ## Who moves while a bulk command is in progress (R82, R85) -/

section Interleaving

variable {s : State} {b : Bulk} {w : Word} {rest : List Input} {more : List Bool}

/-- A foreground command waits, and no choice is used up (R82, R100). -/
theorem State.nextMove_fg_waits (hb : s.bulk = some b) (hp : s.env.program = .command .fg w :: rest) :
    s.nextMove = .micro s := by
  simp [State.nextMove, hb, hp, State.interleave, Input.mayPreempt]

theorem State.nextMove_nothing_presented (hb : s.bulk = some b) (hp : s.env.program = []) : s.nextMove = .micro s := by
  simp [State.nextMove, hb, hp]

/-- With no choice left a micro-step runs, whatever is presented (log 6). -/
theorem State.nextMove_no_choice (hb : s.bulk = some b) (hc : s.env.preempt = []) : s.nextMove = .micro s := by
  cases hp : s.env.program with
  | nil => exact State.nextMove_nothing_presented hb hp
  | cons i rest => simp [State.nextMove, hb, hp, State.interleave, hc]

/-- An interrupt command that is not chosen waits, and the choice is used up (log 6). -/
theorem State.nextMove_irq_waits (hb : s.bulk = some b) (hp : s.env.program = .command .irq w :: rest)
    (hc : s.env.preempt = false :: more) :
    s.nextMove = .micro { s with env := { s.env with preempt := more } } := by
  simp [State.nextMove, hb, hp, State.interleave, Input.mayPreempt, hc]

/-- An interrupt command that is chosen goes first; it and the choice are used up (R85, log 6). -/
theorem State.nextMove_irq_goes (hb : s.bulk = some b) (hp : s.env.program = .command .irq w :: rest)
    (hc : s.env.preempt = true :: more) :
    s.nextMove = .command .irq w { s with env := { s.env with program := rest, preempt := more } } := by
  simp [State.nextMove, hb, hp, State.interleave, Input.mayPreempt, hc, State.takeInput]

/-- A step whose move is a micro-step makes that of the bulk command in progress (R82). -/
theorem step_micro {u : State} (hm : s.nextMove = .micro u) (hb : u.bulk = some b) : step s = .next (b.step u) := by
  simp only [step, hm, State.microStep, hb]

end Interleaving

/-! ## The cursors of the interrupt port (R86, R152) -/

/-- The insert cursor of SRX and the remove cursor of STX, which the interrupt port moves, are as they were. -/
def KeepsIrqCursors (s t : State) : Prop := t.srx.insert = s.srx.insert ∧ t.stx.remove = s.stx.remove

section Cursors

variable {s t : State}

/-- A state with the same rings, whatever else differs, has the same cursors. -/
theorem KeepsIrqCursors.of_rings (hsrx : t.srx = s.srx) (hstx : t.stx = s.stx) : KeepsIrqCursors s t :=
  ⟨congrArg Cursors.insert hsrx, congrArg Cursors.remove hstx⟩

theorem KeepsIrqCursors.refl (s : State) : KeepsIrqCursors s s := ⟨rfl, rfl⟩

theorem KeepsIrqCursors.done (h : KeepsIrqCursors s t) : KeepsIrqCursors s t.done := by
  simpa [KeepsIrqCursors] using h

theorem KeepsIrqCursors.answer (h : KeepsIrqCursors s t) (v : Half) : KeepsIrqCursors s (t.answer v) := by
  simpa [KeepsIrqCursors] using h

theorem KeepsIrqCursors.raise (s : State) (e : ErrCode) : KeepsIrqCursors s (s.raise e) := .of_rings (by simp) (by simp)

theorem KeepsIrqCursors.onlyErr (s : State) (code : Byte) : KeepsIrqCursors s (onlyErr s code) :=
  .of_rings (State.setRegs_srx ..) (State.setRegs_stx ..)

/-- What a micro-step can do includes moving only the other two cursors (R160, R161, R301). -/
theorem BulkEffect.keepsIrqCursors (h : BulkEffect s t) : KeepsIrqCursors s t :=
  ⟨congrArg (·.srx.insert) h.same, congrArg (·.stx.remove) h.same⟩

theorem State.setPeerNoRoom_keepsIrqCursors (s : State) (v : Bool) : KeepsIrqCursors s (s.setPeerNoRoom v) := by
  cases v <;> exact .of_rings rfl rfl

theorem State.setCsr_keepsIrqCursors {r : Nat} {v : Half} (h : s.setCsr r v = some t) : KeepsIrqCursors s t := by
  unfold State.setCsr at h
  split at h <;> cases h
  · exact .of_rings rfl rfl
  · exact .of_rings rfl rfl
  · exact .of_rings rfl rfl
  · exact .of_rings rfl rfl
  · exact .of_rings rfl rfl
  · exact .of_rings rfl rfl
  · exact s.setPeerNoRoom_keepsIrqCursors _

theorem State.setBlkBit_keepsIrqCursors (s : State) (p : Nat) (v : Bool) : KeepsIrqCursors s (s.setBlkBit p v) :=
  .of_rings rfl rfl

theorem State.scatterBlk_keepsIrqCursors (s : State) (n k : Nat) (val : Byte) : KeepsIrqCursors s (s.scatterBlk n k val) :=
  List.foldlRecOn (motive := KeepsIrqCursors s) _ _ (.refl s) fun _ h _ _ => h

theorem State.storeFrame_keepsIrqCursors (s : State) (radio block : List Byte) :
    KeepsIrqCursors s (s.storeFrame radio block) := by
  rw [State.storeFrame_eq]
  exact .of_rings rfl rfl

theorem State.storeDeframed_keepsIrqCursors (s : State) (d : Deframed) : KeepsIrqCursors s (s.storeDeframed d) := by
  rw [State.storeDeframed_eq]
  exact .of_rings rfl rfl

/-- A gate keeps the cursors if its Operation does: a refusal writes ERR only (R104). -/
theorem KeepsIrqCursors.of_gate {i : Instr} {op : State → State} (he : gate i op s = .next t)
    (hop : Accepted i s → KeepsIrqCursors s (op s)) : KeepsIrqCursors s t := by
  obtain ⟨-, rfl⟩ | ⟨-, -, -, rfl⟩ | ⟨ha, rfl⟩ := gate_cases he
  · exact .onlyErr s 9
  · exact .onlyErr s 10
  · exact hop ha

/-- The interleaver's checks, then an operation that keeps the cursors (R193). -/
theorem KeepsIrqCursors.ilvCheck {op : State → State} (hop : KeepsIrqCursors s (op s)) (n : Nat) (inRange : Bool) :
    KeepsIrqCursors s (s.ilvCheck n inRange op) := by
  unfold State.ilvCheck
  split
  · exact .raise s _
  · split
    · exact .raise s _
    · exact hop

/-- The ring operand's range check, then an operation that keeps the cursors on the ring it names (R107). -/
theorem KeepsIrqCursors.withRing {op : Ring → State → State} {ring : Nat}
    (hop : ∀ r, ringOf ring = some r → KeepsIrqCursors s (op r s)) : KeepsIrqCursors s (s.withRing ring op) := by
  unfold State.withRing
  split
  · exact hop _ ‹_›
  · exact .raise s _

/-- The foreground pushes to STX only: RB.PUSH of SRX does not pass the port check (R351). -/
theorem KeepsIrqCursors.of_execRbPush (hp : s.port = .fg) {ring : Nat} {byte : Byte}
    (he : execRbPush ring byte s = .next t) : KeepsIrqCursors s t := by
  unfold execRbPush at he
  refine .of_gate he fun ha => .withRing fun r hr => ?_
  have hne : ring ≠ 0 := by simpa [hp, permitted, accessOf, Access.allows] using ha.1
  obtain rfl := ringOf_eq_stx hr hne
  rcases s.tryPush_cases .stx byte with ⟨-, e⟩ | ⟨-, e⟩ <;> rw [e]
  · exact .of_rings (by simp) (by simp)
  · exact (s.ringPut_stx_effect byte).keepsIrqCursors.answer 1

/-- The foreground pops from SRX only: RB.POP of STX does not pass the port check (R351). -/
theorem KeepsIrqCursors.of_execRbPop (hp : s.port = .fg) {ring : Nat} (he : execRbPop ring s = .next t) :
    KeepsIrqCursors s t := by
  unfold execRbPop at he
  refine .of_gate he fun ha => .withRing fun r hr => ?_
  have hne : ring ≠ 1 := by simpa [hp, permitted, accessOf, Access.allows] using ha.1
  obtain rfl := ringOf_eq_srx hr hne
  rcases s.tryPop_cases .srx with ⟨-, e⟩ | ⟨-, e⟩ <;> rw [e]
  · exact .raise s _
  · exact s.ringDrop_srx_effect.keepsIrqCursors.answer _

/-- SCH.TICK clears TICKCOND and runs the bridge timer before its first micro-step (R241). -/
theorem KeepsIrqCursors.of_execSchTick (he : execSchTick s = .next t) : KeepsIrqCursors s t := by
  unfold execSchTick at he
  refine .of_gate he fun _ => ?_
  split
  · exact .raise s _
  · rw [State.bridgeTimer_eq]
    exact (State.drainStep_effect _ true).keepsIrqCursors

theorem KeepsIrqCursors.of_execMemRd {sp addr : Nat} (he : execMemRd sp addr s = .next t) : KeepsIrqCursors s t := by
  unfold execMemRd at he
  refine .of_gate he fun _ => ?_
  split
  · exact .answer (.refl s) _
  · exact .raise s _

theorem KeepsIrqCursors.of_execMemWr {sp addr : Nat} {val : Byte} (he : execMemWr sp addr val s = .next t) :
    KeepsIrqCursors s t := by
  unfold execMemWr at he
  refine .of_gate he fun _ => ?_
  split
  · exact .done (.of_rings rfl rfl)
  · exact .raise s _

theorem KeepsIrqCursors.of_execCfgWr {r : Nat} {imm : Half} (he : execCfgWr r imm s = .next t) :
    KeepsIrqCursors s t := by
  unfold execCfgWr at he
  refine .of_gate he fun _ => ?_
  split
  · rename_i u hu
    exact (State.setCsr_keepsIrqCursors hu).done
  · exact .raise s _

theorem KeepsIrqCursors.of_execCfgRd {r : Nat} (he : execCfgRd r s = .next t) : KeepsIrqCursors s t := by
  unfold execCfgRd at he
  refine .of_gate he fun _ => ?_
  split
  · exact .answer (.refl s) _
  · exact .raise s _

theorem KeepsIrqCursors.of_execIlvSetbit {n idx : Nat} {v : Bool} (he : execIlvSetbit n v idx s = .next t) :
    KeepsIrqCursors s t := by
  unfold execIlvSetbit at he
  refine .of_gate he fun _ => .ilvCheck ?_ n _
  exact (s.setBlkBit_keepsIrqCursors _ v).done

theorem KeepsIrqCursors.of_execIlvSetbyte {n k : Nat} {val : Byte} (he : execIlvSetbyte n k val s = .next t) :
    KeepsIrqCursors s t := by
  unfold execIlvSetbyte at he
  refine .of_gate he fun _ => .ilvCheck ?_ n _
  exact (s.scatterBlk_keepsIrqCursors n k val).done

theorem KeepsIrqCursors.of_execFrmFrame {type : Byte} {len : Nat} (he : execFrmFrame type len s = .next t) :
    KeepsIrqCursors s t := by
  unfold execFrmFrame at he
  refine .of_gate he fun _ => ?_
  split
  · exact .raise s _
  · exact (s.storeFrame_keepsIrqCursors _ _).answer _

theorem KeepsIrqCursors.of_execFrmDeframe (he : execFrmDeframe s = .next t) : KeepsIrqCursors s t := by
  unfold execFrmDeframe at he
  refine .of_gate he fun _ => ?_
  split
  · exact .raise s _
  · split
    · exact .raise s _
    · exact .raise s _
    · exact (s.storeDeframed_keepsIrqCursors _).answer _

theorem KeepsIrqCursors.of_execSchSubmit {type : Byte} {len : Nat} (he : execSchSubmit type len s = .next t) :
    KeepsIrqCursors s t := by
  unfold execSchSubmit at he
  refine .of_gate he fun _ => ?_
  split
  · exact .raise s _
  · split
    · exact .raise s _
    · exact .done (.of_rings rfl rfl)

theorem KeepsIrqCursors.of_execSchHbreq (he : execSchHbreq s = .next t) : KeepsIrqCursors s t := by
  unfold execSchHbreq at he
  exact .of_gate he fun _ => .done (.of_rings rfl rfl)

theorem KeepsIrqCursors.of_execSchHbclr (he : execSchHbclr s = .next t) : KeepsIrqCursors s t := by
  unfold execSchHbclr at he
  exact .of_gate he fun _ => .done (.of_rings rfl rfl)

theorem KeepsIrqCursors.of_execSchRpclr (he : execSchRpclr s = .next t) : KeepsIrqCursors s t := by
  unfold execSchRpclr at he
  exact .of_gate he fun _ => .done (.of_rings rfl rfl)

theorem KeepsIrqCursors.of_execRbPeek {ring offset : Nat} (he : execRbPeek ring offset s = .next t) :
    KeepsIrqCursors s t := by
  unfold execRbPeek at he
  refine .of_gate he fun _ => .withRing fun r _ => ?_
  split
  · exact .raise s _
  · exact .answer (.refl s) _

/-- Every command on FGCMD but the two resets keeps the two cursors of the interrupt port (R86, R152). -/
theorem KeepsIrqCursors.of_exec_fg (hp : s.port = .fg) {i : Instr} (hring : ∀ r, i ≠ .rbReset r) (hctl : i ≠ .ctlReset)
    (he : exec i s = .next t) : KeepsIrqCursors s t := by
  cases i with
  | nop => exact .of_gate he fun _ => .done (.refl s)
  | memRd sp addr => exact .of_execMemRd he
  | memWr sp addr val => exact .of_execMemWr he
  | cfgWr r imm => exact .of_execCfgWr he
  | cfgRd r => exact .of_execCfgRd he
  | ctlReset => exact absurd rfl hctl
  | ilvGetbit n idx => exact .of_gate he fun _ => .ilvCheck (.answer (.refl s) _) n _
  | ilvSetbit n v idx => exact .of_execIlvSetbit he
  | ilvGetbyte n k => exact .of_gate he fun _ => .ilvCheck (.answer (.refl s) _) n _
  | ilvSetbyte n k val => exact .of_execIlvSetbyte he
  | ilvPhys n idx => exact .of_gate he fun _ => .ilvCheck (.answer (.refl s) _) n _
  | frmFrame type len => exact .of_execFrmFrame he
  | frmDeframe => exact .of_execFrmDeframe he
  | schTick => exact .of_execSchTick he
  | schHbreq => exact .of_execSchHbreq he
  | schHbclr => exact .of_execSchHbclr he
  | schSubmit type len => exact .of_execSchSubmit he
  | schRpclr => exact .of_execSchRpclr he
  | rbPush ring byte => exact .of_execRbPush hp he
  | rbPop ring => exact .of_execRbPop hp he
  | rbPeek ring offset => exact .of_execRbPeek he
  | rbFree ring => exact .of_gate he fun _ => .withRing fun _ _ => .answer (.refl s) _
  | rbUsed ring => exact .of_gate he fun _ => .withRing fun _ _ => .answer (.refl s) _
  | rbReset ring => exact absurd rfl (hring ring)
  | rbPushs ring len =>
    exact .of_gate he fun _ => .withRing fun _ _ => (s.pushStep_effect false _ 0).1.keepsIrqCursors
  | rbPops ring max => exact .of_gate he fun _ => .withRing fun _ _ => (s.popStep_effect max 0).keepsIrqCursors
  | brDrain => exact .of_gate he fun _ => (s.drainStep_effect false).keepsIrqCursors
  | brRoom => exact .of_gate he fun _ => .answer (.refl s) _
  | brDeliver len => exact .of_gate he fun _ => (s.pushStep_effect false _ 0).1.keepsIrqCursors

end Cursors

end Sys2Proof.Machine

namespace Sys2Proof.Proofs

open Sys2Proof.Machine

/-- Settles O7: each clause fixes the next move, and a micro-step is that of the bulk command in progress. -/
theorem bulkCommandsInterleave : Obligations.BulkCommandsInterleave := by
  intro s b hb
  refine ⟨fun w rest hp => ?_, fun hp => ?_, fun hc => ?_, fun w rest more hp hc => ?_, fun w rest more i hp hc hd => ?_⟩
  · exact step_micro (State.nextMove_fg_waits hb hp) hb
  · exact step_micro (State.nextMove_nothing_presented hb hp) hb
  · exact step_micro (State.nextMove_no_choice hb hc) hb
  · exact step_micro (State.nextMove_irq_waits hb hp hc) hb
  · exact step_command (State.nextMove_irq_goes hb hp hc) hd

/-- Settles O59, by the commands, and for a micro-step by what it can do. -/
theorem oneWriterPerCursor : Obligations.OneWriterPerCursor :=
  ⟨fun _ _ _ hp hring hctl he => KeepsIrqCursors.of_exec_fg hp hring hctl he,
    fun s => s.microStep_effect.keepsIrqCursors⟩

end Sys2Proof.Proofs

/-! SUPPORT. The statements on `spec/30_encoding.md`: the word of a well-formed command decodes to it (R101 to R103), a word
that decodes is the word of its command (R103, R106), and the masks of R106 accept just the words that decode (R104). -/

namespace Sys2Proof

/-! ## The word of a command decodes to it (R101, R102, R106) -/

@[simp] theorem fitsByte_eq_true {v : Nat} : fitsByte v = true ↔ v < 256 := decide_eq_true_iff

@[simp] theorem fitsIdx_eq_true {v : Nat} : fitsIdx v = true ↔ v < 2048 := decide_eq_true_iff

@[simp] theorem byte_toNat_lt (b : Byte) : b.toNat < 256 := b.isLt

@[simp] theorem half_toNat_lt (v : Half) : v.toNat < 65536 := v.isLt

/-- Each operand comes back from its field, and the bits that must be zero are zero: by the format of the command's row and
the operands it holds (R101). -/
theorem decode_encode {i : Instr} (h : i.wellFormed = true) : decode (encode i) = .ok i := by
  cases i <;> simp only [Instr.wellFormed, Bool.and_eq_true, fitsByte_eq_true, fitsIdx_eq_true] at h
  case nop | ctlReset | frmDeframe | schTick | schHbreq | schHbclr | schRpclr | brDrain | brRoom =>
    simp [decode, encode, Instr.opcode, formatA_fields]
  case memRd | memWr | ilvGetbyte | ilvSetbyte | frmFrame | schSubmit | rbPush | rbPop | rbPeek | rbFree | rbUsed | rbReset
      | rbPushs | rbPops | brDeliver =>
    simp [decode, encode, Instr.opcode, formatA_fields, h]
  case ilvGetbit | ilvPhys =>
    simp [decode, encode, Instr.opcode, formatB_fields, h]
  case ilvSetbit n v idx =>
    cases v <;> simp [decode, encode, Instr.opcode, formatB_fields, h]
  case cfgWr | cfgRd =>
    simp [decode, encode, Instr.opcode, formatI_fields, h]

/-! ## A word that decodes is the word of its command (R103, R106) -/

/-- A word whose bits 23:0 are zero is of format Z. -/
theorem formatA_eq_of_operands_zero {w : Word} (h : bitField w 23 0 = 0) : formatA (opField w) 0 0 0 = w := by
  rw [bitField_23_0] at h
  have ha : aField w = 0 := by omega
  have hb : bField w = 0 := by omega
  have hc : cField w = 0 := by omega
  conv_rhs => rw [word_eq_formatA w, ha, hb, hc]

/-- A word is its opcode, its byte `a` and its low half. -/
theorem formatI_eq (w : Word) : formatI (opField w) (aField w) (immField w) = w := by
  conv_rhs => rw [word_eq_formatA w]
  rw [formatI, formatA, immField_eq, Nat.add_assoc _ (bField w * 2 ^ 8)]

/-- A word whose low half is zero is its opcode and its byte `a`. -/
theorem formatA_eq_of_immField_zero {w : Word} (h : immField w = 0) : formatA (opField w) (aField w) 0 0 = w := by
  rw [immField_eq] at h
  have hb : bField w = 0 := by omega
  have hc : cField w = 0 := by omega
  conv_rhs => rw [word_eq_formatA w, hb, hc]

/-- A word whose bits 14:11 are zero is of format B. -/
theorem formatB_eq_of_gapField_zero {w : Word} (h : gapField w = 0) :
    formatB (opField w) (aField w) (vField w) (idxField w) = w := by
  conv_rhs => rw [← formatI_eq w]
  rw [formatB, formatI, immField_eq_formatB, h, Nat.zero_mul, Nat.add_zero, Nat.add_assoc _ (vField w * 2 ^ 15)]

/-- The bit `v` is what its Bool encodes. -/
theorem toNat_vField_beq_one (w : Word) : (vField w == 1).toNat = vField w := by
  obtain ⟨-, -, -, -, hv, -⟩ := field_bounds w
  interval_cases vField w <;> rfl

/-- Row by row: the word is put together from its fields, of which those that must be zero are zero. -/
theorem encode_of_decode {w : Word} {i : Instr} (h : decode w = .ok i) : encode i = w := by
  have bytes := word_eq_formatA w
  have z := formatA_eq_of_operands_zero (w := w)
  have lowHalfZero := formatA_eq_of_immField_zero (w := w)
  have b := formatB_eq_of_gapField_zero (w := w)
  have imm := formatI_eq w
  unfold decode at h
  split at h <;> simp only [zeroOr_eq_ok, Except.ok.injEq, reduceCtorEq] at h
  all_goals grind [encode, Instr.opcode, field_bounds, toNat_vField_beq_one]

/-- The word of a decoded command has the command's opcode. -/
theorem opField_of_decode {w : Word} {i : Instr} (h : decode w = .ok i) : opField w = i.opcode := by
  unfold decode at h
  split at h <;> simp only [zeroOr_eq_ok, Except.ok.injEq, reduceCtorEq] at h
  all_goals grind [Instr.opcode]

/-! ## The masks (R104, R106) -/

/-- The mask of the bits `w[hi:lo]` (R11). -/
def fieldMask (hi lo : Nat) : Word := BitVec.ofNat 32 ((2 ^ (hi - lo + 1) - 1) * 2 ^ lo)

/-- A word under the mask of a field is the field, in its place. -/
theorem toNat_and_fieldMask (w : Word) {hi lo : Nat} (hlo : lo ≤ hi) (hhi : hi < 32) :
    (w &&& fieldMask hi lo).toNat = bitField w hi lo * 2 ^ lo := by
  have hfit : (2 ^ (hi - lo + 1) - 1) * 2 ^ lo < 2 ^ 32 := by
    calc (2 ^ (hi - lo + 1) - 1) * 2 ^ lo < 2 ^ (hi - lo + 1) * 2 ^ lo :=
          Nat.mul_lt_mul_of_pos_right (Nat.sub_lt (Nat.two_pow_pos _) Nat.one_pos) (Nat.two_pow_pos lo)
      _ = 2 ^ (hi + 1) := by rw [← Nat.pow_add]; congr 1; omega
      _ ≤ 2 ^ 32 := Nat.pow_le_pow_right (by decide) hhi
  rw [fieldMask, BitVec.toNat_and, BitVec.toNat_ofNat, Nat.mod_eq_of_lt hfit, bitField]
  apply Nat.eq_of_testBit_eq
  intro k
  by_cases hk : lo ≤ k <;>
    simp [Nat.testBit_mul_two_pow, Nat.testBit_mod_two_pow, Nat.testBit_div_two_pow, hk, Bool.and_comm]

/-- A word is zero under the mask of a field just when the field is zero. -/
theorem and_fieldMask_eq_zero {w : Word} {hi lo : Nat} (hlo : lo ≤ hi) (hhi : hi < 32) :
    w &&& fieldMask hi lo = 0 ↔ bitField w hi lo = 0 := by
  rw [← BitVec.toNat_inj, toNat_and_fieldMask w hlo hhi]
  simp

/-- A word under the mask of bits 31:24 is an opcode in its place just when it has that opcode. -/
theorem and_opMask_eq {w : Word} {op : Nat} (hop : op < 256) :
    w &&& fieldMask 31 24 = BitVec.ofNat 32 (op * 2 ^ 24) ↔ opField w = op := by
  rw [← BitVec.toNat_inj, toNat_and_fieldMask w (by decide) (by decide), BitVec.toNat_ofNat, opField]
  omega

/-- The bits of a row that must be zero: its mask without the opcode. -/
def OpcodeRow.zeroMask (r : OpcodeRow) : Word := r.mask &&& fieldMask 23 0

/-- A row of R106 fixes the opcode, in its place, and zeros below it. -/
theorem opcodeRows_shape : ∀ r ∈ opcodeRows,
    r.op < 256 ∧ r.mask = fieldMask 31 24 ||| r.zeroMask ∧ r.pattern = BitVec.ofNat 32 (r.op * 2 ^ 24)
    ∧ r.pattern &&& fieldMask 31 24 = r.pattern ∧ fieldMask 31 24 &&& r.zeroMask = 0 := by decide

/-- Under two disjoint masks a word is `p`, which lies within the first, just when it is `p` under the first and zero under
the second. -/
theorem and_or_eq_iff {w m z p : Word} (hp : p &&& m = p) (hmz : m &&& z = 0) :
    w &&& (m ||| z) = p ↔ w &&& m = p ∧ w &&& z = 0 := by
  simp only [BitVec.eq_of_getLsbD_eq_iff, BitVec.getLsbD_and, BitVec.getLsbD_or] at *
  grind

/-- A row accepts the words of its opcode whose must-be-zero bits are zero (R103, R104). -/
theorem OpcodeRow.accepts_iff_fields {r : OpcodeRow} (hr : r ∈ opcodeRows) {w : Word} :
    r.accepts w = true ↔ opField w = r.op ∧ w &&& r.zeroMask = 0 := by
  obtain ⟨hop, hmask, hpat, hm, hz⟩ := opcodeRows_shape r hr
  rw [OpcodeRow.accepts, beq_iff_eq, hmask, hpat, ← and_opMask_eq hop, and_or_eq_iff (hpat ▸ hm) hz]

section Fields

/-! The must-be-zero columns of R106 that some row has, each as the fields it covers. -/

variable {w : Word}

/-- The byte `c`; the lemmas below say the same of the other columns. -/
theorem and_cMask_eq_zero : w &&& 0xFF#32 = 0#32 ↔ cField w = 0 :=
  and_fieldMask_eq_zero (hi := 7) (lo := 0) (by decide) (by decide)

theorem and_bMask_eq_zero : w &&& 0xFF00#32 = 0#32 ↔ bField w = 0 :=
  and_fieldMask_eq_zero (hi := 15) (lo := 8) (by decide) (by decide)

theorem and_immMask_eq_zero : w &&& 0xFFFF#32 = 0#32 ↔ immField w = 0 :=
  and_fieldMask_eq_zero (hi := 15) (lo := 0) (by decide) (by decide)

theorem and_gapMask_eq_zero : w &&& 0x7800#32 = 0#32 ↔ gapField w = 0 :=
  and_fieldMask_eq_zero (hi := 14) (lo := 11) (by decide) (by decide)

theorem and_operandMask_eq_zero : w &&& 0xFFFFFF#32 = 0#32 ↔ bitField w 23 0 = 0 :=
  and_fieldMask_eq_zero (hi := 23) (lo := 0) (by decide) (by decide)

theorem and_vGapMask_eq_zero : w &&& 0xF800#32 = 0#32 ↔ vField w = 0 ∧ gapField w = 0 :=
  (and_or_eq_iff (m := fieldMask 15 15) (z := fieldMask 14 11) (by decide) (by decide)).trans
    (and_congr (and_fieldMask_eq_zero (by decide) (by decide)) (and_fieldMask_eq_zero (by decide) (by decide)))

theorem and_acMask_eq_zero : w &&& 0xFF00FF#32 = 0#32 ↔ aField w = 0 ∧ cField w = 0 :=
  (and_or_eq_iff (m := fieldMask 23 16) (z := fieldMask 7 0) (by decide) (by decide)).trans
    (and_congr (and_fieldMask_eq_zero (by decide) (by decide)) (and_fieldMask_eq_zero (by decide) (by decide)))

end Fields

/-- Row by row: the fields that `decode` asks to be zero are the bits of the row's mask. -/
theorem decode_ok_iff_zeroMask {r : OpcodeRow} (hr : r ∈ opcodeRows) {w : Word} (hop : opField w = r.op) :
    (∃ i, decode w = .ok i) ↔ w &&& r.zeroMask = 0 := by
  fin_cases hr
  all_goals
    simp [decode, hop, zeroOr_eq_ok, OpcodeRow.zeroMask, fieldMask, and_cMask_eq_zero, and_bMask_eq_zero,
      and_immMask_eq_zero, and_gapMask_eq_zero, and_operandMask_eq_zero, and_vGapMask_eq_zero, and_acMask_eq_zero]

/-- A row accepts just the words that decode to a command of its opcode (R104). -/
theorem OpcodeRow.accepts_iff_decode {r : OpcodeRow} (hr : r ∈ opcodeRows) {w : Word} :
    r.accepts w = true ↔ ∃ i, decode w = .ok i ∧ i.opcode = r.op := by
  rw [OpcodeRow.accepts_iff_fields hr]
  constructor
  · rintro ⟨hop, hz⟩
    obtain ⟨i, hi⟩ := (decode_ok_iff_zeroMask hr hop).mpr hz
    exact ⟨i, hi, (opField_of_decode hi).symm.trans hop⟩
  · rintro ⟨i, hi, hop⟩
    have hop' := (opField_of_decode hi).trans hop
    exact ⟨hop', (decode_ok_iff_zeroMask hr hop').mp ⟨i, hi⟩⟩

/-- Every command has a row (R106). -/
theorem exists_row_of_opcode (i : Instr) : ∃ r ∈ opcodeRows, r.op = i.opcode := by
  cases i <;> simp only [Instr.opcode] <;> decide

/-- No two rows share an opcode (R106). -/
theorem opcodeRows_nodup_op : (opcodeRows.map OpcodeRow.op).Nodup := by decide

end Sys2Proof

namespace Sys2Proof.Proofs

/-- Settles O1, by the commands, format by format. -/
theorem decodeOfEncode : Obligations.DecodeOfEncode := fun _ h => decode_encode h

/-- Settles O2, by the rows of the opcode map. -/
theorem encodeOfDecode : Obligations.EncodeOfDecode := fun _ _ h => ⟨decode_wellFormed h, encode_of_decode h⟩

/-- Settles O3: a row accepts just the words that decode to a command of its opcode, and no two rows share one. -/
theorem decodeAgreesWithOpcodeMap : Obligations.DecodeAgreesWithOpcodeMap := by
  refine fun w => ⟨fun i hi => ?_, fun e he r hr => ?_⟩
  · obtain ⟨r, hr, hop⟩ := exists_row_of_opcode i
    refine ⟨r, hr, (OpcodeRow.accepts_iff_decode hr).mpr ⟨i, hi, hop.symm⟩, hop, fun r' hr' hacc => ?_⟩
    obtain ⟨j, hj, hop'⟩ := (OpcodeRow.accepts_iff_decode hr').mp hacc
    have hij : i = j := Except.ok.inj (hi.symm.trans hj)
    exact List.inj_on_of_nodup_map opcodeRows_nodup_op hr' hr (by rw [← hop', ← hij, hop])
  · rw [Bool.eq_false_iff]
    intro hacc
    obtain ⟨i, hi, -⟩ := (OpcodeRow.accepts_iff_decode hr).mp hacc
    exact nomatch he.symm.trans hi

/-- Settles O4, by running `decode` on each word. -/
theorem wordsOfTheSpecDecode : Obligations.WordsOfTheSpecDecode := by
  unfold Obligations.WordsOfTheSpecDecode
  decide

end Sys2Proof.Proofs

/-! SUPPORT. The statements on `spec/40_access_config.md`: NOP, and the commands that read and write a byte of a space, a
register, or reset the block (R130, R132 to R136). -/

namespace Sys2Proof

/-- A nonzero word with opcode 0 has a bit set that must be zero (R130). -/
theorem decode_opcode_zero {w : Word} (hw : w ≠ 0) (hop : w.toNat < 2 ^ 24) : decode w = .error .mustBeZero := by
  have hnz : w.toNat ≠ 0 := fun h => hw (BitVec.eq_of_toNat_eq h)
  have hopField : opField w = 0 := by
    simp only [opField, bitField]
    omega
  have hoperands : bitField w 23 0 ≠ 0 := by
    simp only [bitField]
    omega
  simp only [decode, hopField]
  exact zeroOr_eq_error.mpr ⟨hoperands, rfl⟩

end Sys2Proof

namespace Sys2Proof.Machine

section AccessCommands

variable {s u : State} {sp addr r size : Nat} {st : Store} {b val : Byte} {v : Half}

/-- One of the four exempt commands runs its own Operation on FGCMD, also while FATAL is set (R345). -/
theorem Accepted.of_exempt {i : Instr} (hp : s.port = .fg) (hi : permitted i .fg = true)
    (he : exemptWhenFatal i = true) : Accepted i s :=
  ⟨by rwa [hp], .inr he⟩

theorem State.raise_rangeError (s : State) : s.raise .rangeError = onlyErr s 8 := State.raise_eq_onlyErr s (by decide)

/-! ## MEM.RD: a byte of a space (R132) -/

theorem State.spaceRead_store (hst : spaceOf s.cfg sp = some (st, size)) (ha : addr < size) :
    s.spaceRead sp addr = some (s.rd st addr) := by
  simp [State.spaceRead, hst, ha]

theorem State.spaceRead_table (ha : addr < 172) : s.spaceRead 4 addr = some (tableByte s.cfg addr) := by
  simp [State.spaceRead, spaceOf, tableSize, ha]

theorem State.spaceRead_store_out (hst : spaceOf s.cfg sp = some (st, size)) (ha : size ≤ addr) :
    s.spaceRead sp addr = none := by
  simp [State.spaceRead, hst, ha.not_gt]

theorem State.spaceRead_table_out (ha : 172 ≤ addr) : s.spaceRead 4 addr = none := by
  simp [State.spaceRead, spaceOf, tableSize, ha.not_gt]

/-- Only the space operands 0 to 3 have a store (R70). -/
theorem spaceOf_above {c : Config} (hsp : 4 ≤ sp) : spaceOf c sp = none := by
  obtain ⟨k, rfl⟩ := Nat.exists_eq_add_of_le' hsp
  rfl

theorem State.spaceRead_reserved (hsp : 4 < sp) : s.spaceRead sp addr = none := by
  simp [State.spaceRead, spaceOf_above hsp.le, hsp.ne']

/-- The even byte of TABLE is the low byte of its stride (R75). -/
theorem tableByte_even (c : Config) (k : Nat) :
    (tableByte c (2 * k)).zeroExtend 16 = BitVec.ofNat 16 (c.stride.getD k 0 % 256) := by
  apply BitVec.eq_of_toNat_eq
  simp [tableByte]

/-- The odd byte of TABLE is the high byte of its stride (R75). -/
theorem tableByte_odd {c : Config} {k : Nat} (hk : c.stride.getD k 0 ≤ 65535) :
    (tableByte c (2 * k + 1)).zeroExtend 16 = BitVec.ofNat 16 (c.stride.getD k 0 / 256) := by
  have hhalf : (2 * k + 1) / 2 = k := by omega
  have hodd : (2 * k + 1) % 2 ≠ 0 := by omega
  rw [tableByte, if_neg hodd, hhalf]
  apply BitVec.eq_of_toNat_eq
  simp only [BitVec.truncate_eq_setWidth, BitVec.toNat_setWidth, BitVec.toNat_ofNat]
  omega

theorem exec_memRd_of_some (hp : s.port = .fg) (hb : s.spaceRead sp addr = some b) :
    exec (.memRd sp addr) s = .next { s with fg := ⟨b.zeroExtend 16, 0⟩ } := by
  change execMemRd sp addr s = _
  rw [execMemRd, gate_accepted (.of_exempt hp rfl rfl)]
  simp only [hb, State.answer_fg hp]

theorem exec_memRd_of_none (hp : s.port = .fg) (hb : s.spaceRead sp addr = none) :
    exec (.memRd sp addr) s = .next (onlyErr s 8) := by
  change execMemRd sp addr s = _
  rw [execMemRd, gate_accepted (.of_exempt hp rfl rfl)]
  simp only [hb, s.raise_rangeError]

/-! ## MEM.WR: a byte of BLK, PAY or RXB (R133) -/

theorem writableSpace_of_lt {c : Config} (hst : spaceOf c sp = some (st, size)) (hsp : sp ≠ 2) (ha : addr < size) :
    writableSpace c sp addr = some st := by
  simp [writableSpace, hst, hsp, ha]

theorem writableSpace_out {c : Config} (hst : spaceOf c sp = some (st, size)) (ha : size ≤ addr) :
    writableSpace c sp addr = none := by
  simp [writableSpace, hst, ha.not_gt]

/-- TXB is read-only (R70). -/
theorem writableSpace_txb (c : Config) (addr : Nat) : writableSpace c 2 addr = none := rfl

/-- TABLE and the reserved spaces have no store to write (R70). -/
theorem writableSpace_above {c : Config} (hsp : 4 ≤ sp) : writableSpace c sp addr = none := by
  simp [writableSpace, spaceOf_above hsp]

theorem exec_memWr_of_some (h : FgReady s) (hst : writableSpace s.cfg sp addr = some st) :
    exec (.memWr sp addr val) s = .next (s.wr st addr val).done := by
  change execMemWr sp addr val s = _
  rw [execMemWr, gate_accepted (h.accepted rfl)]
  simp only [hst]

theorem exec_memWr_of_none (h : FgReady s) (hst : writableSpace s.cfg sp addr = none) :
    exec (.memWr sp addr val) s = .next (onlyErr s 8) := by
  change execMemWr sp addr val s = _
  rw [execMemWr, gate_accepted (h.accepted rfl)]
  simp only [hst, s.raise_rangeError]

/-! ## CFG.WR and CFG.RD: a register (R134, R135) -/

theorem clampLbt_of_eq_zero (hv : v.toNat = 0) : clampLbt v = 0 := if_pos hv

theorem clampLbt_of_lt_25 (h1 : 1 ≤ v.toNat) (h25 : v.toNat < 25) : clampLbt v = 25 := by
  rw [clampLbt, if_neg (by omega), if_pos h25]

theorem clampLbt_of_mem_range (h25 : 25 ≤ v.toNat) (h220 : v.toNat ≤ 220) : clampLbt v = BitVec.ofNat 8 v.toNat := by
  rw [clampLbt, if_neg (by omega), if_neg (by omega), if_pos h220]

theorem clampLbt_of_gt_220 (h220 : 220 < v.toNat) : clampLbt v = 220 := by
  rw [clampLbt, if_neg (by omega), if_neg (by omega), if_neg (by omega)]

theorem State.setCsr_port (hu : s.setCsr r v = some u) : u.port = s.port := by
  unfold State.setCsr at hu
  split at hu <;> cases hu <;> rfl

/-- Only the registers 0x08 to 0x0E can be written (R30, R31). -/
theorem State.setCsr_outside (hr : r < 0x08 ∨ 0x0E < r) : s.setCsr r v = none := by
  unfold State.setCsr
  split
  case h_8 => rfl
  all_goals omega

theorem exec_cfgWr_of_some (h : FgReady s) (hu : s.setCsr r v = some u) :
    exec (.cfgWr r v) s = .next { u with fg := { u.fg with err := 0 } } := by
  change execCfgWr r v s = _
  rw [execCfgWr, gate_accepted (h.accepted rfl)]
  simp only [hu, State.done_fg ((State.setCsr_port hu).trans h.1)]

theorem exec_cfgWr_of_none (h : FgReady s) (hu : s.setCsr r v = none) :
    exec (.cfgWr r v) s = .next (onlyErr s 8) := by
  change execCfgWr r v s = _
  rw [execCfgWr, gate_accepted (h.accepted rfl)]
  simp only [hu, s.raise_rangeError]

/-- The register numbers of the map (R26). -/
def csrNumbers : List Nat :=
  [0x00, 0x01, 0x02, 0x03, 0x04, 0x08, 0x09, 0x0A, 0x0B, 0x0C, 0x0D, 0x0E, 0x10, 0x11, 0x12, 0x13, 0x18, 0x19, 0x1A, 0x1B,
   0x1C, 0x1D, 0x1E, 0x1F, 0x20, 0x21, 0x22, 0x23, 0x28, 0x29, 0x2A, 0x2B, 0x2C, 0x30, 0x31, 0x32, 0x33, 0x34]

/-- Every case of `csr` but the last has a number of the map. -/
theorem State.csr_outside (hr : r ∉ csrNumbers) : s.csr r = none := by
  unfold State.csr
  split
  case h_39 => rfl
  all_goals exact absurd (by decide) hr

theorem exec_cfgRd_of_some (hp : s.port = .fg) (hv : s.csr r = some v) :
    exec (.cfgRd r) s = .next { s with fg := ⟨v, 0⟩ } := by
  change execCfgRd r s = _
  rw [execCfgRd, gate_accepted (.of_exempt hp rfl rfl)]
  simp only [hv, State.answer_fg hp]

theorem exec_cfgRd_of_none (hp : s.port = .fg) (hv : s.csr r = none) :
    exec (.cfgRd r) s = .next (onlyErr s 8) := by
  change execCfgRd r s = _
  rw [execCfgRd, gate_accepted (.of_exempt hp rfl rfl)]
  simp only [hv, s.raise_rangeError]

/-! ## CTL.RESET (R136) -/

theorem hasResetValues_softReset (s : State) : HasResetValues s.softReset :=
  { hasResetValues_resetWith s.cfg with }

end AccessCommands

end Sys2Proof.Machine

namespace Sys2Proof.Proofs

open Sys2Proof.Machine

/-- Settles O14: NOP passes the gate in every state, and a word with opcode 0 must be zero elsewhere. -/
theorem nopOnlyClearsErr : Obligations.NopOnlyClearsErr :=
  ⟨fun _ => gate_accepted ⟨rfl, .inr rfl⟩ _, rfl, fun _ => decode_opcode_zero⟩

/-- Settles O15, space by space, each with the addresses in it and those beyond it. -/
theorem memRdGivesTheByte : Obligations.MemRdGivesTheByte := by
  refine fun s sp addr hp => ⟨?blk, ?pay, ?txb, ?rxb, fun k hsp hk => ⟨?even, ?odd⟩, fun hout => ?out⟩
  case blk | pay | txb | rxb =>
    rintro ⟨rfl, ha⟩
    exact exec_memRd_of_some hp (State.spaceRead_store rfl ha)
  case even =>
    rintro rfl
    rw [hsp, exec_memRd_of_some hp (State.spaceRead_table (by omega)), tableByte_even]
  case odd =>
    rintro rfl hstride
    rw [hsp, exec_memRd_of_some hp (State.spaceRead_table (by omega)), tableByte_odd hstride]
  case out =>
    refine exec_memRd_of_none hp ?_
    obtain hsp | ⟨rfl, ha⟩ | ⟨rfl, ha⟩ | ⟨rfl, ha⟩ | ⟨rfl, ha⟩ | ⟨rfl, ha⟩ := hout
    · exact State.spaceRead_reserved hsp
    · exact State.spaceRead_store_out rfl ha
    · exact State.spaceRead_store_out rfl ha
    · exact State.spaceRead_store_out rfl ha
    · exact State.spaceRead_store_out rfl ha
    · exact State.spaceRead_table_out ha

/-- Settles O16: the operands name a writable store or none, and one write changes one byte. -/
theorem memWrWritesOneByte : Obligations.MemWrWritesOneByte := by
  refine fun s sp addr val h => ⟨fun st hst => ?_, fun hout => exec_memWr_of_none h ?_⟩
  · have hw : writableSpace s.cfg sp addr = some st := by
      obtain ⟨rfl, rfl, ha⟩ | ⟨rfl, rfl, ha⟩ | ⟨rfl, rfl, ha⟩ := hst
      all_goals exact writableSpace_of_lt rfl (by decide) ha
    refine ⟨_, exec_memWr_of_some h hw, ?_, fun st' a hne => ?_, ?_⟩
    · rw [State.done_rd, State.rd_wr_same]
    · rw [State.done_rd, State.rd_wr, if_neg hne]
    · rw [State.done_fg (s := s.wr st addr val) h.1]
      rfl
  · obtain rfl | hsp | ⟨rfl, ha⟩ | ⟨rfl, ha⟩ | ⟨rfl, ha⟩ := hout
    · exact writableSpace_txb _ _
    · exact writableSpace_above hsp
    · exact writableSpace_out rfl ha
    · exact writableSpace_out rfl ha
    · exact writableSpace_out rfl ha

/-- Settles O17, register by register: each write is that of `setCsr`, with the clamp of LBT taken range by range and
PEERNOROOM by the bit written. -/
theorem cfgWrClampsAndStores : Obligations.CfgWrClampsAndStores := by
  intro s v h
  have hlbt := exec_cfgWr_of_some h (r := 0x09) (v := v) rfl
  have hpeer := exec_cfgWr_of_some h (r := 0x0E) (v := v) rfl
  refine ⟨(exec_cfgWr_of_some h rfl).trans rfl, fun h0 => ?_, fun h1 h25 => ?_, fun h25 h220 => ?_, fun h220 => ?_,
    (exec_cfgWr_of_some h rfl).trans rfl, (exec_cfgWr_of_some h rfl).trans rfl, (exec_cfgWr_of_some h rfl).trans rfl,
    (exec_cfgWr_of_some h rfl).trans rfl,
    fun hodd => ?_, fun heven => ?_, fun r hr => exec_cfgWr_of_none h (State.setCsr_outside hr)⟩
  · rw [hlbt, clampLbt_of_eq_zero h0]
  · rw [hlbt, clampLbt_of_lt_25 h1 h25]
  · rw [hlbt, clampLbt_of_mem_range h25 h220]
  · rw [hlbt, clampLbt_of_gt_220 h220]
  · rw [hpeer, hodd]
    rfl
  · rw [hpeer, heven]
    rfl

/-- Settles O18: each row of the map is what `csr` reads there, and its numbers are all that `csr` knows. -/
theorem cfgRdReadsTheRegisterMap : Obligations.CfgRdReadsTheRegisterMap := by
  intro s hp map
  have hrow : ∀ p ∈ map, s.csr p.1 = some p.2 := by
    have hbit : (if s.tun.peerNoRoom then 1 else 0) = BitVec.ofNat 16 s.tun.peerNoRoom.toNat := by
      cases s.tun.peerNoRoom <;> rfl
    simp only [map, hbit, List.forall_mem_append, List.forall_mem_cons, List.not_mem_nil, false_imp_iff, implies_true,
      and_true]
    repeat' apply And.intro
    all_goals rfl
  have hnumbers : map.map Prod.fst = csrNumbers := rfl
  exact ⟨fun r v hrv => exec_cfgRd_of_some hp (hrow _ hrv),
    fun r hr => exec_cfgRd_of_none hp (State.csr_outside (hnumbers ▸ hr))⟩

/-- Settles O20: CTL.RESET passes the gate on FGCMD, and what it leaves is the reset state with memory and inputs kept. -/
theorem ctlResetRestoresTheResetState : Obligations.CtlResetRestoresTheResetState := fun s hp =>
  ⟨s.softReset, gate_accepted (.of_exempt hp rfl rfl) _, hasResetValues_softReset s, rfl, rfl, rfl⟩

end Sys2Proof.Proofs

/-! SUPPORT. The statements on `spec/41_ring_buffer.md`: the occupancy of a ring and any traffic on it (R151, R163), the
ring commands (R153 to R159), the push and pop loops run to their end (R160, R161), and the counters (R166). -/

namespace Sys2Proof.Machine

/-! ## Traffic on a ring (R163) -/

section Traffic

variable {s t : State} {r : Ring}

/-- A push keeps the cursors legal under the capacity after it. -/
theorem State.ringPut_cursorsOk (h : cursorsOk (s.cap r) (s.cursors r) = true) (b : Byte) :
    cursorsOk ((s.ringPut r b).cap r) ((s.ringPut r b).cursors r) = true := by
  rw [State.ringPut_cap]
  exact State.ringPut_ok h b

/-- A pop keeps the cursors legal under the capacity after it. -/
theorem State.ringDrop_cursorsOk (h : cursorsOk (s.cap r) (s.cursors r) = true) :
    cursorsOk ((s.ringDrop r).cap r) ((s.ringDrop r).cursors r) = true := by
  rw [State.ringDrop_cap]
  exact State.ringDrop_ok h

/-- Free and used places make up one less than the capacity (R151). -/
theorem State.ringFree_add_ringUsed (h : cursorsOk (s.cap r) (s.cursors r) = true) :
    s.ringFree r + s.ringUsed r = s.cap r - 1 :=
  Nat.sub_add_cancel (Nat.le_sub_one_of_lt (State.ringUsed_lt h))

/-- A full ring has no free place (R151). -/
theorem State.ringFree_of_full (h : cursorsOk (s.cap r) (s.cursors r) = true) (hf : s.ringFull r = true) :
    s.ringFree r = 0 := by
  rw [State.ringFree, (State.ringFull_iff h).1 hf, Nat.sub_self]

/-- A push takes one free place (R151). -/
theorem State.ringFree_ringPut (h : cursorsOk (s.cap r) (s.cursors r) = true) (hf : s.ringFull r = false) (b : Byte) :
    s.ringFree r = (s.ringPut r b).ringFree r + 1 := by
  have hafter := State.ringFree_add_ringUsed (State.ringPut_cursorsOk h b)
  have hbefore := State.ringFree_add_ringUsed h
  rw [State.ringPut_used h hf, State.ringPut_cap] at hafter
  omega

/-- What leaves a ring and what stays in it is what was in it and what entered, in order (R163). -/
theorem ringTraffic_contents {ops : List RingOp} {out : List Byte} (h : cursorsOk (s.cap r) (s.cursors r) = true)
    (ht : ringTraffic r ops s = some (out, t)) : out ++ t.ringContents r = s.ringContents r ++ pushedBytes ops := by
  induction ops generalizing s out with
  | nil =>
    cases ht
    simp [pushedBytes]
  | cons op ops ih =>
    cases op with
    | push b =>
      rcases s.tryPush_cases r b with ⟨-, e⟩ | ⟨hf, e⟩ <;> simp only [ringTraffic, e, reduceCtorEq] at ht
      rw [ih (State.ringPut_cursorsOk h b) ht, State.ringPut_contents h hf, pushedBytes, List.append_assoc,
        List.singleton_append]
    | pop =>
      rcases s.tryPop_cases r with ⟨-, e⟩ | ⟨he, e⟩ <;> simp only [ringTraffic, e, reduceCtorEq] at ht
      split at ht
      · rename_i rest _ hrest
        cases ht
        rw [State.ringDrop_contents h he, List.cons_append, List.cons_append,
          ih (State.ringDrop_cursorsOk h) hrest, pushedBytes]
      · cases ht

/-- A ring takes as many bytes as it has free places, and no more (R163). -/
theorem ringTraffic_push_isSome (h : cursorsOk (s.cap r) (s.cursors r) = true) (bs : List Byte) :
    (ringTraffic r (bs.map RingOp.push) s).isSome = true ↔ bs.length ≤ s.ringFree r := by
  induction bs generalizing s with
  | nil => simp [ringTraffic]
  | cons b bs ih =>
    rcases s.tryPush_cases r b with ⟨hf, e⟩ | ⟨hf, e⟩ <;> simp only [List.map_cons, ringTraffic, e]
    · simp [State.ringFree_of_full h hf]
    · rw [ih (State.ringPut_cursorsOk h b), State.ringFree_ringPut h hf b, List.length_cons,
        Nat.add_le_add_iff_right]

end Traffic

/-! ## The ring operand (R107) -/

section RingOperand

variable {s : State} {ring offset : Nat} {r : Ring} {byte : Byte}

theorem ringOf_eq_some (h : (ring = 0 ∧ r = .srx) ∨ (ring = 1 ∧ r = .stx)) : ringOf ring = some r := by
  rcases h with ⟨rfl, rfl⟩ | ⟨rfl, rfl⟩ <;> rfl

theorem ringOf_above (h : 1 < ring) : ringOf ring = none := by
  obtain ⟨k, rfl⟩ := Nat.exists_eq_add_of_le' h
  rfl

/-- A ring command that passes the gate runs its operation on the ring it names (R104, R107). -/
theorem gate_withRing {i : Instr} (ha : Accepted i s) (hr : ringOf ring = some r) (op : Ring → State → State) :
    gate i (fun t => t.withRing ring op) s = .next (op r s) := by
  rw [gate_accepted ha, State.withRing, hr]

/-- A ring operand above 1 is a RangeError (R107, R338). -/
theorem gate_withRing_above {i : Instr} (ha : Accepted i s) (h : 1 < ring) (op : Ring → State → State) :
    gate i (fun t => t.withRing ring op) s = .next (onlyErr s 8) := by
  rw [gate_accepted ha, State.withRing, ringOf_above h, s.raise_rangeError]

/-! ## The ring commands (R153 to R159) -/

theorem exec_rbPush_of_not_full (ha : Accepted (.rbPush ring byte) s) (hr : ringOf ring = some r)
    (hf : s.ringFull r = false) : exec (.rbPush ring byte) s = .next ((s.ringPut r byte).answer 1) := by
  refine (gate_withRing ha hr _).trans ?_
  simp [State.tryPush, hf]

theorem exec_rbPush_of_full (ha : Accepted (.rbPush ring byte) s) (hr : ringOf ring = some r)
    (hf : s.ringFull r = true) :
    exec (.rbPush ring byte) s = .next ((s.countOverflow r).setRegs s.port ⟨0, 1⟩) := by
  refine (gate_withRing ha hr _).trans ?_
  simp [State.tryPush, hf, ErrCode.code]

theorem exec_rbPop_of_not_empty (ha : Accepted (.rbPop ring) s) (hr : ringOf ring = some r)
    (he : s.ringEmpty r = false) :
    exec (.rbPop ring) s =
      .next ((s.ringDrop r).answer ((s.rd r.storage (s.cursors r).remove).zeroExtend 16)) := by
  refine (gate_withRing ha hr _).trans ?_
  simp [State.tryPop, he]

theorem exec_rbPop_of_empty (ha : Accepted (.rbPop ring) s) (hr : ringOf ring = some r)
    (he : s.ringEmpty r = true) : exec (.rbPop ring) s = .next (onlyErr s 2) := by
  refine (gate_withRing ha hr _).trans ?_
  simp [State.tryPop, he, State.raise_eq_onlyErr, ErrCode.code]

theorem exec_rbPeek_of_lt (ha : Accepted (.rbPeek ring offset) s) (hr : ringOf ring = some r)
    (ho : offset < s.ringUsed r) :
    exec (.rbPeek ring offset) s = .next (s.answer ((s.ringPeek r offset).zeroExtend 16)) := by
  refine (gate_withRing ha hr _).trans ?_
  rw [if_neg ho.not_ge]

theorem exec_rbPeek_of_ge (ha : Accepted (.rbPeek ring offset) s) (hr : ringOf ring = some r)
    (ho : s.ringUsed r ≤ offset) : exec (.rbPeek ring offset) s = .next (onlyErr s 2) := by
  refine (gate_withRing ha hr _).trans ?_
  simp [ho, State.raise_eq_onlyErr, ErrCode.code]

/-- A push into a ring changes one byte of its storage, its insert cursor, and the answer (R153). -/
theorem State.ringPut_answer_frame (s : State) (r : Ring) (b : Byte) (v : Half) :
    { (s.ringPut r b).answer v with mem := s.mem } =
      (s.setCursors r ⟨((s.cursors r).insert + 1) % s.cap r, (s.cursors r).remove⟩).setRegs s.port ⟨v, 0⟩ := by
  have hp : (s.ringPut r b).port = s.port := by cases r <;> rfl
  rw [State.answer, hp]
  cases r <;> cases s.port <;> rfl

/-- A pop from a ring moves its remove cursor and answers (R154). -/
theorem State.ringDrop_answer (s : State) (r : Ring) (v : Half) :
    (s.ringDrop r).answer v =
      (s.setCursors r ⟨(s.cursors r).insert, ((s.cursors r).remove + 1) % s.cap r⟩).setRegs s.port ⟨v, 0⟩ := by
  rw [State.answer, State.ringDrop, State.setCursors_port]

end RingOperand

/-! ## Running a bulk command to its end (R82) -/

section RunBulk

variable {s : State}

/-- Completing a bulk command where none is in progress changes nothing. -/
theorem State.clear_bulk_eq (h : s.bulk = none) : { s with bulk := none } = s := by rw [← h]

theorem State.runBulk_of_done (h : s.bulk = none) (fuel : Nat) : s.runBulk fuel = s := by
  cases fuel <;> simp [State.runBulk, h]

/-- A suspended bulk command goes on with its next micro-step. -/
theorem State.runBulk_suspend (s : State) (b : Bulk) (fuel : Nat) :
    State.runBulk (fuel + 1) (s.suspend b) = State.runBulk fuel (b.step (s.suspend b)) := rfl

/-- The end of a push loop is the end of its command. -/
@[simp] theorem State.runBulk_endPush (s : State) (inTick full : Bool) (count fuel : Nat) :
    State.runBulk fuel (s.endPush inTick full count) = s.endPush inTick full count :=
  State.runBulk_of_done (by cases inTick <;> rfl) fuel

@[simp] theorem State.runBulk_finishBulk (s : State) (result : Half) (err : Byte) (fuel : Nat) :
    State.runBulk fuel (s.finishBulk result err) = s.finishBulk result err :=
  State.runBulk_of_done rfl fuel

end RunBulk

/-! ## The push loop (R160) -/

/-- Push a run of bytes, each as a push into a ring that is not full. -/
def State.ringPuts (r : Ring) (bs : List Byte) (s : State) : State := bs.foldl (fun t b => t.ringPut r b) s

/-- Push as many leading bytes as fit to STX, and count one overflow if a byte was dropped (R160, R303). -/
def State.pushPrefix (bs : List Byte) (s : State) : State :=
  let t := s.ringPuts .stx (bs.take (s.ringFree .stx))
  if s.ringFree .stx < bs.length then t.countOverflow .stx else t

section Push

variable {s : State} {r : Ring}

theorem State.ringPuts_cons (s : State) (r : Ring) (b : Byte) (bs : List Byte) :
    s.ringPuts r (b :: bs) = (s.ringPut r b).ringPuts r bs := rfl

@[simp] theorem State.ringPuts_cap (s : State) (r r' : Ring) (bs : List Byte) :
    (s.ringPuts r bs).cap r' = s.cap r' :=
  List.foldlRecOn (motive := fun t : State => t.cap r' = s.cap r') _ _ rfl fun _ h _ _ => (State.ringPut_cap ..).trans h

theorem State.ringPut_insert_lt (hi : (s.cursors r).insert < s.cap r) (b : Byte) :
    ((s.ringPut r b).cursors r).insert < (s.ringPut r b).cap r := by
  rw [State.ringPut_cursors, State.ringPut_cap]
  exact Nat.mod_lt _ (Nat.zero_lt_of_lt hi)

theorem State.ringPuts_cursors (hi : (s.cursors r).insert < s.cap r) (bs : List Byte) :
    (s.ringPuts r bs).cursors r = ⟨((s.cursors r).insert + bs.length) % s.cap r, (s.cursors r).remove⟩ := by
  induction bs generalizing s with
  | nil => simp [State.ringPuts, Nat.mod_eq_of_lt hi]
  | cons b bs ih =>
    rw [State.ringPuts_cons, ih (State.ringPut_insert_lt hi b), State.ringPut_cursors, State.ringPut_cap,
      List.length_cons, Nat.mod_add_mod, Nat.add_right_comm, Nat.add_assoc]

/-- A run of bytes that fits is queued in order (R160, R163). -/
theorem State.ringPuts_contents (h : cursorsOk (s.cap r) (s.cursors r) = true) {bs : List Byte}
    (hfit : bs.length ≤ s.ringFree r) : (s.ringPuts r bs).ringContents r = s.ringContents r ++ bs := by
  induction bs generalizing s with
  | nil => simp [State.ringPuts]
  | cons b bs ih =>
    rw [List.length_cons] at hfit
    have hf : s.ringFull r = false := by
      by_contra hfull
      rw [State.ringFree_of_full h (by simpa using hfull)] at hfit
      omega
    rw [State.ringFree_ringPut h hf b, Nat.add_le_add_iff_right] at hfit
    rw [State.ringPuts_cons, ih (State.ringPut_cursorsOk h b) hfit, State.ringPut_contents h hf, List.append_assoc,
      List.singleton_append]

/-- A run of pushes writes the places from the insert cursor on, and no other byte. -/
theorem State.ringPuts_sameBytes (s : State) (r : Ring) (bs : List Byte) (hi : (s.cursors r).insert < s.cap r) :
    SameBytesBut (fun st a => st = r.storage ∧ ∃ j, j < bs.length ∧ a = ((s.cursors r).insert + j) % s.cap r) s
      (s.ringPuts r bs) := by
  induction bs generalizing s with
  | nil => exact fun _ _ _ => rfl
  | cons b bs ih =>
    intro st a hout
    rw [State.ringPuts_cons, ih _ (State.ringPut_insert_lt hi b) st a ?later, State.rd_ringPut, if_neg ?first]
    case first =>
      rintro ⟨rfl, rfl⟩
      exact hout ⟨rfl, 0, Nat.zero_lt_succ _, (Nat.mod_eq_of_lt hi).symm⟩
    case later =>
      rintro ⟨rfl, j, hj, rfl⟩
      refine hout ⟨rfl, j + 1, Nat.succ_lt_succ hj, ?_⟩
      rw [State.ringPut_cursors, State.ringPut_cap, Nat.mod_add_mod, Nat.add_right_comm, Nat.add_assoc]

/-- A run of pushes to STX changes the memory and the cursors of STX only. -/
theorem State.ringPuts_stx_frame (s : State) (bs : List Byte) :
    s.ringPuts .stx bs = { s with mem := (s.ringPuts .stx bs).mem, stx := (s.ringPuts .stx bs).stx } := by
  induction bs generalizing s with
  | nil => rfl
  | cons b bs ih => rw [State.ringPuts_cons, ih]; rfl

/-- What a push loop does has nothing to do with the record of its progress. -/
theorem State.pushPrefix_bulk (s : State) (bs : List Byte) (x : Option Bulk) :
    State.pushPrefix bs { s with bulk := x } = { s.pushPrefix bs with bulk := x } := by
  have hputs : ∀ cs, State.ringPuts .stx cs { s with bulk := x } = { s.ringPuts .stx cs with bulk := x } := by
    intro cs
    induction cs generalizing s with
    | nil => rfl
    | cons c cs ih => exact ih (s.ringPut .stx c)
  have hfree : State.ringFree { s with bulk := x } .stx = s.ringFree .stx := rfl
  simp only [State.pushPrefix, hfree, hputs]
  split <;> rfl

theorem State.pushPrefix_of_full (h : cursorsOk (s.cap .stx) (s.cursors .stx) = true) (hf : s.ringFull .stx = true)
    (b : Byte) (bs : List Byte) : s.pushPrefix (b :: bs) = s.countOverflow .stx := by
  simp [State.pushPrefix, State.ringFree_of_full h hf, State.ringPuts]

theorem State.pushPrefix_cons (h : cursorsOk (s.cap .stx) (s.cursors .stx) = true) (hf : s.ringFull .stx = false)
    (b : Byte) (bs : List Byte) : s.pushPrefix (b :: bs) = (s.ringPut .stx b).pushPrefix bs := by
  simp only [State.pushPrefix, State.ringFree_ringPut h hf b, List.length_cons, Nat.add_lt_add_iff_right,
    List.take_succ_cons, State.ringPuts_cons]

/-- How many leading bytes fit, as the statements count them. -/
theorem State.length_take_ringFree (s : State) (bs : List Byte) :
    (bs.take (s.ringFree .stx)).length = min bs.length (s.ringFree .stx) := by
  rw [List.length_take, Nat.min_comm]

theorem State.pushPrefix_stx (h : cursorsOk (s.cap .stx) (s.cursors .stx) = true) (bs : List Byte) :
    (s.pushPrefix bs).stx = ⟨(s.stx.insert + min bs.length (s.ringFree .stx)) % s.cfg.txCap, s.stx.remove⟩ := by
  have hputs : (s.ringPuts .stx _).stx = _ := State.ringPuts_cursors (cursorsOk_iff.1 h).1 (bs.take (s.ringFree .stx))
  rw [State.length_take_ringFree] at hputs
  unfold State.pushPrefix
  split <;> exact hputs

/-- STX holds its bytes, then the leading ones that fit (R160, R163). -/
theorem State.pushPrefix_contents (h : cursorsOk (s.cap .stx) (s.cursors .stx) = true) (bs : List Byte) :
    (s.pushPrefix bs).ringContents .stx = s.ringContents .stx ++ bs.take (min bs.length (s.ringFree .stx)) := by
  have hputs := State.ringPuts_contents h (bs := bs.take (s.ringFree .stx)) (List.length_take_le ..)
  rw [Nat.min_comm, ← List.take_eq_take_min, ← hputs]
  unfold State.pushPrefix
  split <;> rfl

theorem State.pushPrefix_sameBytes (h : cursorsOk (s.cap .stx) (s.cursors .stx) = true) (bs : List Byte) :
    SameBytesBut
      (fun st a => st = .stx
        ∧ ∃ j, j < min bs.length (s.ringFree .stx) ∧ a = (s.stx.insert + j) % s.cfg.txCap) s (s.pushPrefix bs) := by
  have hputs := State.ringPuts_sameBytes s .stx (bs.take (s.ringFree .stx)) (cursorsOk_iff.1 h).1
  rw [State.length_take_ringFree] at hputs
  unfold State.pushPrefix
  split <;> exact hputs

/-- An overflow is counted when not all bytes fit (R160, R165). -/
theorem State.pushPrefix_cnt (s : State) (bs : List Byte) :
    (s.pushPrefix bs).cnt =
      if min bs.length (s.ringFree .stx) = bs.length then s.cnt else { s.cnt with txOvf := satInc s.cnt.txOvf } := by
  unfold State.pushPrefix
  rw [State.ringPuts_stx_frame]
  split
  · rw [if_neg (by omega)]
    rfl
  · rw [if_pos (by omega)]

/-- The push loop changes the memory, the cursors of STX and the overflow counter only. -/
theorem State.pushPrefix_frame (s : State) (bs : List Byte) :
    s.pushPrefix bs =
      { s with mem := (s.pushPrefix bs).mem, stx := (s.pushPrefix bs).stx, cnt := (s.pushPrefix bs).cnt } := by
  unfold State.pushPrefix
  rw [State.ringPuts_stx_frame]
  split <;> rfl

/-- The push loop run to its end pushes as many leading bytes as fit, then ends, of a tick or of a command (R160, R245,
R303). -/
theorem State.runBulk_pushStep (h : cursorsOk (s.cap .stx) (s.cursors .stx) = true) (inTick : Bool) (bs : List Byte)
    (count : Nat) {fuel : Nat} (hfuel : bs.length ≤ fuel) :
    ∃ x, State.runBulk fuel (s.pushStep inTick bs count) =
      State.endPush inTick (decide (s.ringFree .stx < bs.length)) (count + min bs.length (s.ringFree .stx))
        { s.pushPrefix bs with bulk := x } := by
  induction bs generalizing s count fuel with
  | nil => exact ⟨s.bulk, by simp [State.pushStep, State.pushPrefix, State.ringPuts]⟩
  | cons b more ih =>
    rcases s.tryPush_cases .stx b with ⟨hf, e⟩ | ⟨hf, e⟩ <;> simp only [State.pushStep, e]
    · refine ⟨s.bulk, ?_⟩
      rw [State.runBulk_endPush, State.pushPrefix_of_full h hf, State.ringFree_of_full h hf, Nat.min_zero]
      rfl
    have hcount : count + 1 + min more.length ((s.ringPut .stx b).ringFree .stx)
        = count + min (b :: more).length (s.ringFree .stx) := by
      rw [State.ringFree_ringPut h hf b, List.length_cons]
      omega
    have hfull : ((s.ringPut .stx b).ringFree .stx < more.length) = (s.ringFree .stx < (b :: more).length) := by
      rw [State.ringFree_ringPut h hf b, List.length_cons, Nat.add_lt_add_iff_right]
    simp only [State.pushPrefix_cons h hf, ← hcount, ← hfull]
    split
    · rename_i hmore
      subst hmore
      exact ⟨(s.ringPut .stx b).bulk, by simp [State.pushPrefix, State.ringPuts]⟩
    · obtain ⟨fuel, rfl⟩ := Nat.exists_eq_add_of_le' ((Nat.le_add_left 1 _).trans hfuel)
      obtain ⟨x, hx⟩ := ih (s := (s.ringPut .stx b).suspend (.push inTick more (count + 1)))
        (State.ringPut_cursorsOk h b) (count + 1) (Nat.le_of_succ_le_succ hfuel)
      refine ⟨x, ?_⟩
      rw [State.runBulk_suspend]
      refine hx.trans ?_
      rw [State.suspend, State.pushPrefix_bulk]
      rfl

end Push

/-! ## The pop loop (R161) -/

/-- Move the `n` oldest bytes of SRX to PAY, from address `a` on (R161). -/
def State.popInto (n a : Nat) (s : State) : State :=
  (s.setCursors .srx ⟨s.srx.insert, (s.srx.remove + n) % s.cfg.rxCap⟩).writeBytes .pay a ((s.ringContents .srx).take n)

section Pop

variable {s : State}

theorem State.writeBytes_suspend (s : State) (x : Bulk) (st : Store) (a : Nat) (bs : List Byte) :
    (s.suspend x).writeBytes st a bs = (s.writeBytes st a bs).suspend x := by
  induction bs generalizing s a with
  | nil => rfl
  | cons b bs ih => exact ih (s.wr st a b) (a + 1)

/-- What a pop loop does has nothing to do with the record of its progress. -/
theorem State.popInto_suspend (s : State) (x : Bulk) (n a : Nat) :
    (s.suspend x).popInto n a = (s.popInto n a).suspend x :=
  State.writeBytes_suspend (s.setCursors .srx _) x .pay a _

theorem State.popInto_zero (h : cursorsOk (s.cap .srx) (s.cursors .srx) = true) (a : Nat) : s.popInto 0 a = s := by
  have hremove : s.srx.remove % s.cfg.rxCap = s.srx.remove := Nat.mod_eq_of_lt (cursorsOk_iff.1 h).2
  rw [State.popInto, Nat.add_zero, hremove, List.take_zero]
  rfl

/-- The state after one byte has gone from SRX to PAY: a pop, then a write. -/
def State.popOne (a : Nat) (s : State) : State := (s.ringDrop .srx).wr .pay a (s.rd .srx s.srx.remove)

theorem State.popOne_cursorsOk (h : cursorsOk (s.cap .srx) (s.cursors .srx) = true) (a : Nat) :
    cursorsOk ((s.popOne a).cap .srx) ((s.popOne a).cursors .srx) = true := State.ringDrop_cursorsOk h

/-- The byte that goes to PAY is the oldest of SRX; the others stay (R161). -/
theorem State.popOne_contents (h : cursorsOk (s.cap .srx) (s.cursors .srx) = true) (he : s.ringEmpty .srx = false)
    (a : Nat) :
    s.ringUsed .srx = (s.popOne a).ringUsed .srx + 1
    ∧ s.ringContents .srx = s.rd .srx s.srx.remove :: (s.popOne a).ringContents .srx := by
  obtain ⟨hused, hcontents⟩ := State.ringContents_congr (s := s.ringDrop .srx) (t := s.popOne a) (r := .srx) rfl rfl
    fun _ => State.rd_wr_other _ _ (.inl (by decide))
  rw [hused, hcontents]
  exact ⟨(State.ringDrop_used h he).symm, State.ringDrop_contents h he⟩

/-- To move one more byte is to move one, then the others. -/
theorem State.popInto_succ (h : cursorsOk (s.cap .srx) (s.cursors .srx) = true) (he : s.ringEmpty .srx = false)
    (n a : Nat) : s.popInto (n + 1) a = (s.popOne a).popInto n (a + 1) := by
  have hremove : (s.popOne a).srx.remove = (s.srx.remove + 1) % s.cfg.rxCap := rfl
  have hcfg : (s.popOne a).cfg = s.cfg := rfl
  rw [State.popInto, State.popInto, (State.popOne_contents h he a).2, List.take_succ_cons, hremove, hcfg, Nat.mod_add_mod,
    Nat.add_assoc, Nat.add_comm 1 n]
  rfl

theorem State.popInto_contents (h : cursorsOk (s.cap .srx) (s.cursors .srx) = true) {n : Nat}
    (hn : n ≤ s.ringUsed .srx) (a : Nat) : (s.popInto n a).ringContents .srx = (s.ringContents .srx).drop n := by
  induction n generalizing s a with
  | zero => rw [State.popInto_zero h, List.drop_zero]
  | succ n ih =>
    have he : s.ringEmpty .srx = false := by
      by_contra hempty
      have hzero := (State.ringEmpty_iff h).1 (by simpa using hempty)
      omega
    obtain ⟨hused, hcontents⟩ := State.popOne_contents h he a
    rw [State.popInto_succ h he, ih (State.popOne_cursorsOk h a) (by omega), hcontents, List.drop_succ_cons]

/-- The bytes moved stand in PAY, and no other byte has changed. -/
theorem State.rd_popInto {n : Nat} (hn : n ≤ s.ringUsed .srx) (a : Nat) (st : Store) (a' : Nat) :
    (s.popInto n a).rd st a' =
      if st = .pay ∧ a ≤ a' ∧ a' < a + n then (s.ringContents .srx).getD (a' - a) 0 else s.rd st a' := by
  have hlen : ((s.ringContents .srx).take n).length = n := by simpa using hn
  rw [State.popInto, State.rd_writeBytes, hlen]
  split
  · rename_i hin
    have hlt : a' - a < n := by omega
    simp [List.getD_eq_getElem?_getD, hlt]
  · simp

/-- Moving bytes changes the memory and the remove cursor of SRX only. -/
theorem State.popInto_frame (s : State) (n a : Nat) :
    s.popInto n a =
      { s with mem := (s.popInto n a).mem, srx := ⟨s.srx.insert, (s.srx.remove + n) % s.cfg.rxCap⟩ } := by
  rw [State.popInto, State.writeBytes_eq]
  rfl

theorem State.popStep_of_le {max count : Nat} (h : max ≤ count) :
    s.popStep max count = s.finishBulk (BitVec.ofNat 16 count) 0 := if_pos h

theorem State.popStep_of_empty (he : s.ringEmpty .srx = true) (max count : Nat) :
    s.popStep max count = s.finishBulk (BitVec.ofNat 16 count) 0 := by
  simp [State.popStep, State.tryPop, he]

theorem State.popStep_of_not_empty (he : s.ringEmpty .srx = false) {max count : Nat} (h : count < max) :
    s.popStep max count =
      if max ≤ count + 1 then (s.popOne count).finishBulk (BitVec.ofNat 16 (count + 1)) 0
      else (s.popOne count).suspend (.pop max (count + 1)) := by
  simp only [State.popStep, State.tryPop, he, h.not_ge]
  rfl

/-- The pop loop with `k` bytes still allowed, run to its end, moves the oldest bytes of SRX to PAY (R161). -/
theorem State.runBulk_popStep (h : cursorsOk (s.cap .srx) (s.cursors .srx) = true) {max count k fuel : Nat}
    (hmax : max = count + k) (hfuel : k ≤ fuel) :
    State.runBulk fuel (s.popStep max count) =
      (s.popInto (min k (s.ringUsed .srx)) count).finishBulk (BitVec.ofNat 16 (count + min k (s.ringUsed .srx))) 0 := by
  induction k generalizing s count fuel with
  | zero =>
    rw [State.popStep_of_le (count := count) hmax.le, State.runBulk_finishBulk, Nat.zero_min, State.popInto_zero h,
      Nat.add_zero]
  | succ k ih =>
    rcases Bool.eq_false_or_eq_true (s.ringEmpty .srx) with he | he
    · rw [State.popStep_of_empty he, State.runBulk_finishBulk, (State.ringEmpty_iff h).1 he, Nat.min_zero,
        State.popInto_zero h, Nat.add_zero]
    have hok := State.popOne_cursorsOk h count
    have hcount : ∀ m, count + (m + 1) = count + 1 + m := by omega
    rw [State.popStep_of_not_empty he (by omega), (State.popOne_contents h he count).1, Nat.add_min_add_right,
      State.popInto_succ h he, hcount (min k ((s.popOne count).ringUsed .srx))]
    split
    · have hk : k = 0 := by omega
      rw [State.runBulk_finishBulk, hk, Nat.zero_min, State.popInto_zero hok, Nat.add_zero]
    · obtain ⟨fuel, rfl⟩ := Nat.exists_eq_add_of_le' ((Nat.le_add_left 1 k).trans hfuel)
      rw [State.runBulk_suspend]
      refine (ih (s := (s.popOne count).suspend (.pop max (count + 1))) hok (hmax.trans (hcount k))
        (Nat.le_of_succ_le_succ hfuel)).trans ?_
      rw [State.popInto_suspend]
      rfl

end Pop

/-! ## The counters (R166) -/

/-- Every statistics counter is as it was or one higher, but never above 0xFFFF. -/
def CountersUp (s t : State) : Prop :=
  CountsUp s.cnt.rxOvf t.cnt.rxOvf ∧ CountsUp s.cnt.txOvf t.cnt.txOvf ∧ CountsUp s.cnt.corr t.cnt.corr
  ∧ CountsUp s.cnt.uncorr t.cnt.uncorr

section Counters

variable {s t u : State}

theorem CountersUp.of_cnt_eq (h : t.cnt = s.cnt) : CountersUp s t := by
  rw [CountersUp, h]
  exact ⟨.inl rfl, .inl rfl, .inl rfl, .inl rfl⟩

/-- What the counters do depends on their values before and after only. -/
theorem CountersUp.congr (h : CountersUp s t) {s' t' : State} (hs : s'.cnt = s.cnt) (ht : t'.cnt = t.cnt) :
    CountersUp s' t' := by
  rwa [CountersUp, hs, ht]

theorem CountersUp.countOverflow (s : State) (r : Ring) : CountersUp s (s.countOverflow r) := by
  cases r
  · exact ⟨.inr rfl, .inl rfl, .inl rfl, .inl rfl⟩
  · exact ⟨.inl rfl, .inr rfl, .inl rfl, .inl rfl⟩

/-- A micro-step counts each event at most once, and no overflow of SRX (R160, R165, R244). -/
theorem BulkEffect.countersUp (h : BulkEffect s t) : CountersUp s t :=
  ⟨.inl (congrArg (·.cnt.rxOvf) h.same), h.counts⟩

/-- A refusal counts nothing (R343). -/
theorem onlyErr_cnt (s : State) (code : Byte) : (onlyErr s code).cnt = s.cnt := State.setRegs_cnt ..

theorem State.ringPut_cnt (s : State) (r : Ring) (b : Byte) : (s.ringPut r b).cnt = s.cnt := by cases r <;> rfl

theorem State.ringDrop_cnt (s : State) (r : Ring) : (s.ringDrop r).cnt = s.cnt := by cases r <;> rfl

theorem State.scatterBlk_cnt (s : State) (n k : Nat) (val : Byte) : (s.scatterBlk n k val).cnt = s.cnt :=
  List.foldlRecOn (motive := fun t : State => t.cnt = s.cnt) _ _ rfl fun _ h _ _ => h

theorem State.setCsr_cnt {r : Nat} {v : Half} (h : s.setCsr r v = some t) : t.cnt = s.cnt := by
  unfold State.setCsr at h
  split at h <;> cases h <;> rfl

/-- A gate counts as its Operation does (R104). -/
theorem CountersUp.of_gate {i : Instr} {op : State → State} (he : gate i op s = .next t) (hop : CountersUp s (op s)) :
    CountersUp s t := by
  obtain ⟨-, rfl⟩ | ⟨-, -, -, rfl⟩ | ⟨-, rfl⟩ := gate_cases he
  · exact .of_cnt_eq (onlyErr_cnt s 9)
  · exact .of_cnt_eq (onlyErr_cnt s 10)
  · exact hop

theorem CountersUp.raise (s : State) (e : ErrCode) : CountersUp s (s.raise e) := .of_cnt_eq (State.raise_cnt s e)

theorem CountersUp.answer (h : CountersUp s t) (v : Half) : CountersUp s (t.answer v) :=
  h.congr rfl (State.answer_cnt t v)

theorem CountersUp.done (h : CountersUp s t) : CountersUp s t.done := h.congr rfl (State.done_cnt t)

theorem CountersUp.refl (s : State) : CountersUp s s := .of_cnt_eq rfl

/-- The interleaver's checks, then its operation (R193). -/
theorem CountersUp.ilvCheck {op : State → State} (hop : CountersUp s (op s)) (n : Nat) (inRange : Bool) :
    CountersUp s (s.ilvCheck n inRange op) := by
  unfold State.ilvCheck
  split
  · exact .raise s _
  · split
    · exact .raise s _
    · exact hop

/-- The ring operand's range check, then its operation (R107). -/
theorem CountersUp.withRing {op : Ring → State → State} (hop : ∀ r, CountersUp s (op r s)) (ring : Nat) :
    CountersUp s (s.withRing ring op) := by
  unfold State.withRing
  split
  · exact hop _
  · exact .raise s _

/-! One lemma per command whose Operation is more than an answer. -/

theorem CountersUp.of_execMemRd {sp addr : Nat} (he : execMemRd sp addr s = .next t) : CountersUp s t := by
  unfold execMemRd at he
  refine .of_gate he ?_
  split
  · exact .answer (.refl s) _
  · exact .raise s _

theorem CountersUp.of_execMemWr {sp addr : Nat} {val : Byte} (he : execMemWr sp addr val s = .next t) :
    CountersUp s t := by
  unfold execMemWr at he
  refine .of_gate he ?_
  split
  · exact .done (.of_cnt_eq rfl)
  · exact .raise s _

theorem CountersUp.of_execCfgWr {r : Nat} {imm : Half} (he : execCfgWr r imm s = .next t) : CountersUp s t := by
  unfold execCfgWr at he
  refine .of_gate he ?_
  split
  · exact .done (.of_cnt_eq (State.setCsr_cnt ‹_›))
  · exact .raise s _

theorem CountersUp.of_execCfgRd {r : Nat} (he : execCfgRd r s = .next t) : CountersUp s t := by
  unfold execCfgRd at he
  refine .of_gate he ?_
  split
  · exact .answer (.refl s) _
  · exact .raise s _

theorem CountersUp.of_execIlvSetbit {n idx : Nat} {v : Bool} (he : execIlvSetbit n v idx s = .next t) :
    CountersUp s t := by
  unfold execIlvSetbit at he
  refine .of_gate he (.ilvCheck ?_ n _)
  exact .done (.of_cnt_eq rfl)

theorem CountersUp.of_execIlvSetbyte {n k : Nat} {val : Byte} (he : execIlvSetbyte n k val s = .next t) :
    CountersUp s t := by
  unfold execIlvSetbyte at he
  refine .of_gate he (.ilvCheck ?_ n _)
  exact .done (.of_cnt_eq (s.scatterBlk_cnt n k val))

theorem CountersUp.of_execFrmFrame {type : Byte} {len : Nat} (he : execFrmFrame type len s = .next t) :
    CountersUp s t := by
  unfold execFrmFrame at he
  refine .of_gate he ?_
  split
  · exact .raise s _
  · exact .answer (.of_cnt_eq (congrArg State.cnt (State.storeFrame_eq ..))) _

/-- FRM.DEFRAME answers the corrections in CORR and counts none: the counters are the tick's (R221, R244). -/
theorem CountersUp.of_execFrmDeframe (he : execFrmDeframe s = .next t) : CountersUp s t := by
  unfold execFrmDeframe at he
  refine .of_gate he ?_
  split
  · exact .raise s _
  · split
    · exact .raise s _
    · exact .raise s _
    · exact .answer (.of_cnt_eq (congrArg State.cnt (State.storeDeframed_eq ..))) _

theorem CountersUp.of_execSchTick (he : execSchTick s = .next t) : CountersUp s t := by
  unfold execSchTick at he
  refine .of_gate he ?_
  split
  · exact .raise s _
  · rw [State.bridgeTimer_eq]
    exact (State.drainStep_effect _ true).countersUp

theorem CountersUp.of_execSchHbreq (he : execSchHbreq s = .next t) : CountersUp s t := by
  unfold execSchHbreq at he
  exact .of_gate he (.done (.of_cnt_eq rfl))

theorem CountersUp.of_execSchHbclr (he : execSchHbclr s = .next t) : CountersUp s t := by
  unfold execSchHbclr at he
  exact .of_gate he (.done (.of_cnt_eq rfl))

theorem CountersUp.of_execSchSubmit {type : Byte} {len : Nat} (he : execSchSubmit type len s = .next t) :
    CountersUp s t := by
  unfold execSchSubmit at he
  refine .of_gate he ?_
  split
  · exact .raise s _
  · split
    · exact .raise s _
    · exact .done (.of_cnt_eq rfl)

theorem CountersUp.of_execSchRpclr (he : execSchRpclr s = .next t) : CountersUp s t := by
  unfold execSchRpclr at he
  exact .of_gate he (.done (.of_cnt_eq rfl))

theorem CountersUp.of_execRbPush {ring : Nat} {byte : Byte} (he : execRbPush ring byte s = .next t) :
    CountersUp s t := by
  unfold execRbPush at he
  refine .of_gate he (.withRing (fun r => ?_) ring)
  rcases s.tryPush_cases r byte with ⟨-, e⟩ | ⟨-, e⟩ <;> rw [e]
  · exact (CountersUp.countOverflow s r).congr rfl (State.setRegs_cnt ..)
  · exact .answer (.of_cnt_eq (s.ringPut_cnt r byte)) 1

theorem CountersUp.of_execRbPop {ring : Nat} (he : execRbPop ring s = .next t) : CountersUp s t := by
  unfold execRbPop at he
  refine .of_gate he (.withRing (fun r => ?_) ring)
  rcases s.tryPop_cases r with ⟨-, e⟩ | ⟨-, e⟩ <;> rw [e]
  · exact .raise s _
  · exact .answer (.of_cnt_eq (s.ringDrop_cnt r)) _

theorem CountersUp.of_execRbPeek {ring offset : Nat} (he : execRbPeek ring offset s = .next t) : CountersUp s t := by
  unfold execRbPeek at he
  refine .of_gate he (.withRing (fun r => ?_) ring)
  split
  · exact .raise s _
  · exact .answer (.refl s) _

theorem CountersUp.of_execRbReset {ring : Nat} (he : execRbReset ring s = .next t) : CountersUp s t := by
  unfold execRbReset at he
  refine .of_gate he (.withRing (fun r => ?_) ring)
  exact .done (.of_cnt_eq (State.setCursors_cnt ..))

/-- Every command but CTL.RESET counts at most one overflow, or what its first micro-step counts (R40, R166). -/
theorem CountersUp.of_exec {i : Instr} (hctl : i ≠ .ctlReset) (he : exec i s = .next t) : CountersUp s t := by
  cases i with
  | nop => exact .of_gate he (.done (.refl s))
  | memRd sp addr => exact .of_execMemRd he
  | memWr sp addr val => exact .of_execMemWr he
  | cfgWr r imm => exact .of_execCfgWr he
  | cfgRd r => exact .of_execCfgRd he
  | ctlReset => exact absurd rfl hctl
  | ilvGetbit n idx => exact .of_gate he (.ilvCheck (.answer (.refl s) _) n _)
  | ilvSetbit n v idx => exact .of_execIlvSetbit he
  | ilvGetbyte n k => exact .of_gate he (.ilvCheck (.answer (.refl s) _) n _)
  | ilvSetbyte n k val => exact .of_execIlvSetbyte he
  | ilvPhys n idx => exact .of_gate he (.ilvCheck (.answer (.refl s) _) n _)
  | frmFrame type len => exact .of_execFrmFrame he
  | frmDeframe => exact .of_execFrmDeframe he
  | schTick => exact .of_execSchTick he
  | schHbreq => exact .of_execSchHbreq he
  | schHbclr => exact .of_execSchHbclr he
  | schSubmit type len => exact .of_execSchSubmit he
  | schRpclr => exact .of_execSchRpclr he
  | rbPush ring byte => exact .of_execRbPush he
  | rbPop ring => exact .of_execRbPop he
  | rbPeek ring offset => exact .of_execRbPeek he
  | rbFree ring => exact .of_gate he (.withRing (fun _ => .answer (.refl s) _) ring)
  | rbUsed ring => exact .of_gate he (.withRing (fun _ => .answer (.refl s) _) ring)
  | rbReset ring => exact .of_execRbReset he
  | rbPushs ring len => exact .of_gate he (.withRing (fun _ => (s.pushStep_effect false _ 0).1.countersUp) ring)
  | rbPops ring max => exact .of_gate he (.withRing (fun _ => (s.popStep_effect max 0).countersUp) ring)
  | brDrain => exact .of_gate he (s.drainStep_effect false).countersUp
  | brRoom => exact .of_gate he (.answer (.refl s) _)
  | brDeliver len => exact .of_gate he (s.pushStep_effect false _ 0).1.countersUp

/-- CTL.RESET on IRQCMD is refused (R351), so it counts nothing. -/
theorem CountersUp.of_exec_irq (hp : s.port = .irq) {i : Instr} (he : exec i s = .next t) : CountersUp s t := by
  by_cases hctl : i = .ctlReset
  · rw [hctl, exec_violation (by rw [hp]; rfl)] at he
    cases he
    exact .of_cnt_eq (onlyErr_cnt s 9)
  · exact .of_exec hctl he

/-- Choosing a move counts nothing. -/
theorem State.nextMove_cnt (s : State) : s.nextMove.state.cnt = s.cnt := by
  obtain ⟨program, preempt, e⟩ := s.nextMove_state
  rw [e]

/-- Every step but the two resets only counts up (R40, R166). -/
theorem CountersUp.of_step (hs : step s = .next t) (hreset : ∀ u, s.nextMove ≠ .reset u)
    (hctl : ∀ w u, s.nextMove = .command .fg w u → decode w ≠ .ok .ctlReset) : CountersUp s t := by
  have hmove := s.nextMove_cnt
  obtain ⟨u, hm, rfl⟩ | ⟨u, hm, rfl⟩ | ⟨u, hm, rfl⟩ | ⟨p, w, u, i, hm, hd, he⟩ | ⟨p, w, u, e, hm, -, rfl⟩ :=
    step_cases hs <;> rw [hm] at hmove
  · exact .of_cnt_eq hmove
  · exact u.microStep_effect.countersUp.congr hmove.symm rfl
  · exact absurd hm (hreset u)
  · refine CountersUp.congr (s := u.onPort p) ?_ hmove.symm rfl
    cases p with
    | fg => exact .of_exec (fun hi => hctl w u hm (hi ▸ hd)) he
    | irq => exact .of_exec_irq rfl he
  · rw [State.illegal_eq]
    exact .of_cnt_eq ((onlyErr_cnt ..).trans hmove)

theorem satInc_of_lt {c : Half} (h : c.toNat < 0xFFFF) : (satInc c).toNat = c.toNat + 1 := by
  rw [satInc, if_pos h, BitVec.toNat_ofNat]
  omega

theorem satInc_of_max {c : Half} (h : c.toNat = 0xFFFF) : satInc c = c := if_neg (by omega)

end Counters

end Sys2Proof.Machine

namespace Sys2Proof.Proofs

open Sys2Proof.Machine

/-- Settles O22: with legal cursors the occupancy has no wrap left in it. -/
theorem ringOccupancy : Obligations.RingOccupancy := fun _ _ h =>
  ⟨State.ringUsed_lt h, State.ringEmpty_iff h, State.ringFull_iff h, State.ringFree_add_ringUsed h⟩

/-- Settles O23, by induction on the traffic; an empty ring has N-1 free places. -/
theorem ringRoundTrip : Obligations.RingRoundTrip := by
  refine fun s r h => ⟨fun ops out t ht => ringTraffic_contents h ht, fun hempty bs => ?_⟩
  rw [ringTraffic_push_isSome h, State.ringFree, (State.ringEmpty_iff h).1 hempty, Nat.sub_zero]

/-- Settles O24, by whether the ring the operand names is full. -/
theorem rbPushStoresOrCounts : Obligations.RbPushStoresOrCounts := by
  refine fun s ring byte ha => ⟨fun r hr => ⟨fun hfree => ?_, fun hfull => ?_⟩, fun hring => ?_⟩
  · refine ⟨_, exec_rbPush_of_not_full ha (ringOf_eq_some hr) (beq_eq_false_iff_ne.2 hfree), ?_, fun st a hne => ?_,
      s.ringPut_answer_frame r byte 1⟩
    · rw [State.answer_rd, State.rd_ringPut, if_pos ⟨rfl, rfl⟩]
    · rw [State.answer_rd, State.rd_ringPut, if_neg hne]
  · rw [exec_rbPush_of_full ha (ringOf_eq_some hr) (beq_iff_eq.2 hfull)]
    cases r <;> rfl
  · exact gate_withRing_above ha hring _

/-- Settles O25, by whether the ring is empty, and for RB.PEEK by whether the offset is below the occupancy. -/
theorem rbPopAndPeek : Obligations.RbPopAndPeek := by
  intro s ring ha
  have hpeek : ∀ offset, Accepted (.rbPeek ring offset) s := fun _ => ha
  refine ⟨fun r hr => ?_, fun hring => ⟨?_, fun offset => ?_⟩⟩
  · have hr := ringOf_eq_some hr
    refine ⟨fun hne => ?_, fun heq => exec_rbPop_of_empty ha hr (beq_iff_eq.2 heq), fun offset =>
      ⟨fun hlt => exec_rbPeek_of_lt (hpeek offset) hr hlt, fun hge => exec_rbPeek_of_ge (hpeek offset) hr hge⟩⟩
    rw [exec_rbPop_of_not_empty ha hr (beq_eq_false_iff_ne.2 hne), State.ringDrop_answer]
  · exact gate_withRing_above ha hring _
  · exact gate_withRing_above (hpeek offset) hring _

/-- Settles O26: the three queries only answer, on the ring they name. -/
theorem occupancyQueries : Obligations.OccupancyQueries := by
  intro s hf
  have hused : ∀ ring, Accepted (.rbUsed ring) s := fun _ => ⟨rfl, .inl hf⟩
  have hfree : ∀ ring, Accepted (.rbFree ring) s := fun _ => ⟨rfl, .inl hf⟩
  have hroom : s.port = .fg → exec .brRoom s =
      .next { s with fg := ⟨if s.tun.maxpay.toNat ≤ s.ringFree .stx then 1 else 0, 0⟩ } := fun hp =>
    (gate_accepted (FgReady.accepted ⟨hp, hf⟩ rfl) _).trans (congrArg _ (State.answer_fg hp _))
  refine ⟨fun ring r hr => ⟨?_, ?_⟩, fun ring hring => ⟨?_, ?_⟩, fun hp =>
    ⟨fun (hle : _ ≤ s.ringFree .stx) => ?_, fun (hlt : s.ringFree .stx < _) => ?_⟩⟩
  · exact gate_withRing (hused ring) (ringOf_eq_some hr) _
  · exact gate_withRing (hfree ring) (ringOf_eq_some hr) _
  · exact gate_withRing_above (hused ring) hring _
  · exact gate_withRing_above (hfree ring) hring _
  · rw [hroom hp, if_pos hle]
  · rw [hroom hp, if_neg hlt.not_ge]

/-- Settles O27, ring by ring. -/
theorem rbResetZeroesBothCursors : Obligations.RbResetZeroesBothCursors := by
  intro s h
  have ha : ∀ ring, Accepted (.rbReset ring) s := fun _ => h.accepted rfl
  refine ⟨?_, ?_, fun ring hring => gate_withRing_above (ha ring) hring _⟩
  · exact (gate_withRing (ha 0) rfl _).trans (congrArg _ (State.done_fg (s := s.setCursors .srx .empty) h.1))
  · exact (gate_withRing (ha 1) rfl _).trans (congrArg _ (State.done_fg (s := s.setCursors .stx .empty) h.1))

/-- Settles O28: both commands start the push loop of R160 on STX, which pushes as many leading bytes as fit. -/
theorem pushSlicePushesTheLongestPrefix : Obligations.PushSlicePushesTheLongestPrefix := by
  intro s i len hi h hb hok
  have hexec : exec i s = .next (s.pushStep false (s.readBytes .pay len) 0) := by
    rcases hi with rfl | rfl <;> exact gate_accepted (h.accepted rfl) _
  have hlen := s.readBytes_length .pay len
  obtain ⟨x, hrun⟩ := State.runBulk_pushStep hok false (s.readBytes .pay len) 0 hlen.le
  have hstx := State.pushPrefix_stx hok (s.readBytes .pay len)
  have hcontents := State.pushPrefix_contents hok (s.readBytes .pay len)
  have hbytes := State.pushPrefix_sameBytes hok (s.readBytes .pay len)
  have hcnt := s.pushPrefix_cnt (s.readBytes .pay len)
  have hframe := s.pushPrefix_frame (s.readBytes .pay len)
  rw [hlen] at hrun hstx hcontents hbytes hcnt
  refine ⟨_, hexec, ?_⟩
  rw [hrun]
  refine ⟨rfl, congrArg₂ PortRegs.mk (by rw [Nat.zero_add]) ?err, hcnt, hstx, hcontents, hbytes, ?frame⟩
  case err =>
    by_cases hfull : s.ringFree .stx < len
    · rw [if_pos (decide_eq_true hfull), if_neg (by omega)]
      rfl
    · rw [if_neg (by simpa using hfull), if_pos (by omega)]
  case frame =>
    rw [hframe]
    exact State.clear_bulk_eq hb

/-- Settles O29: the pop loop ends when `max` bytes are moved or the ring is empty. -/
theorem popIntoTakesTheOldest : Obligations.PopIntoTakesTheOldest := by
  intro s max h hb hok
  have hexec : exec (.rbPops 0 max) s = .next (s.popStep max 0) := gate_accepted (h.accepted rfl) _
  have hrun := State.runBulk_popStep hok (Nat.zero_add max).symm le_rfl
  have hn := Nat.min_le_right max (s.ringUsed .srx)
  have hcontents := State.popInto_contents hok hn 0
  have hread := State.rd_popInto hn 0
  have hframe := s.popInto_frame (min max (s.ringUsed .srx)) 0
  rw [Nat.zero_add] at hrun
  refine ⟨_, hexec, ?_⟩
  rw [hrun]
  refine ⟨rfl, rfl, congrArg State.srx hframe, ?pay, hcontents, fun st a hne => ?bytes, ?frame⟩
  case pay =>
    refine List.ext_getElem (by simp) fun j hj hj' => ?_
    have hjn : j < min max (s.ringUsed .srx) := by simpa using hj
    rw [State.readBytes_getElem, State.finishBulk_rd, hread, if_pos ⟨rfl, by omega, by omega⟩, Nat.sub_zero,
      List.getElem_take, List.getD_eq_getElem]
  case bytes =>
    rw [State.finishBulk_rd, hread, if_neg (by simpa using hne)]
  case frame =>
    rw [hframe]
    exact State.clear_bulk_eq hb

/-- Settles O60, by the kinds of step: a micro-step, a command or an illegal word. -/
theorem countersOnlySatInc : Obligations.CountersOnlySatInc :=
  ⟨fun _ => ⟨satInc_of_lt, satInc_of_max⟩, fun _ _ hs hreset hctl => CountersUp.of_step hs hreset hctl⟩

end Sys2Proof.Proofs

/-! SUPPORT. The statements on `spec/42_interleaver.md`: the permutation (R183, R184), the ILV commands on a supported size and
on an unsupported one (R185 to R189, R193, R194), and that de-interleaving undoes interleaving (R190, R191). -/

namespace Sys2Proof.Machine

/-! ## The criterion of R183 -/

/-- A place for physical bit 1 is an inverse of the stride modulo `8n` (R183). -/
theorem supported_of_phys_eq_one {c : Config} {n i : Nat} (h1 : 1 ≤ n) (h255 : n ≤ 255) (hi : phys c n i = 1) :
    supported c n = true := by
  have hinv : strideOf c n * i ≡ 1 [MOD 8 * n] := by
    rw [Nat.ModEq, Nat.mul_comm, Nat.mod_eq_of_lt (by omega : 1 < 8 * n)]
    exact hi
  exact (supported_iff c n).2 ⟨h1, h255, Nat.coprime_of_mul_modEq_one i hinv⟩

/-! ## De-interleaving (R190, R191) -/

theorem deinterleave_interleave {c : Config} {n : Nat} (h : supported c n = true) {block : List Byte}
    (hl : block.length = n) : deinterleave c n (interleave c n block) = block := by
  refine block_ext (by rw [deinterleave_length, hl]) fun i hi => ?_
  rw [deinterleave_length] at hi
  rw [blockBit_deinterleave c n _ hi, blockBit_interleave h block hi]

/-! ## Bits of BLK -/

/-- A bit as a number is the digit of R11. -/
theorem byteBit_toNat (b : Byte) (j : Nat) : (byteBit b j).toNat = b.toNat / 2 ^ j % 2 := by
  rcases Nat.mod_two_eq_zero_or_one (b.toNat / 2 ^ j) with h | h <;> simp [byteBit, h]

/-- Setting a bit of BLK, seen through any read. -/
theorem State.rd_setBlkBit (s : State) (p : Nat) (v : Bool) (st : Store) (a : Nat) :
    (s.setBlkBit p v).rd st a =
      if st = .blk ∧ a = p / 8 then setByteBit (s.rd .blk (p / 8)) (p % 8) v else s.rd st a :=
  s.rd_wr .blk st (p / 8) a _

/-- A command that changes the memory only, then completes on FGCMD: what it leaves beside the memory. -/
theorem State.done_frame_of_mem {s t : State} (hp : s.port = .fg) (ht : t = { s with mem := t.mem }) :
    { t.done with mem := s.mem } = { s with fg := { s.fg with err := 0 } } := by
  have hpt : t.port = .fg := by rw [ht, hp]
  rw [State.done_fg hpt, ht]

/-! ## The size check and the index check (R193, R194) -/

theorem State.raise_invalidBlockSize_fg {s : State} (hp : s.port = .fg) :
    s.raise .invalidBlockSize = { s with fg := { s.fg with err := 6 }, fatal := true } := by
  rw [State.raise_invalidBlockSize, onlyErr_fg hp]

section IlvCommands

variable {s : State} {i : Instr} {n : Nat} {op : State → State}

/-- A command whose Operation gives `t` on the state it runs in (R104). -/
theorem FgReady.gate_eq (h : FgReady s) (hi : permitted i .fg = true) {t : State} (ht : op s = t) :
    gate i op s = .next t := by
  rw [gate_accepted (h.accepted hi), ht]

/-- A command whose size check refuses changes ERR and FATAL only (R193, R336). -/
theorem FgReady.gate_invalidBlockSize (h : FgReady s) (hi : permitted i .fg = true)
    (hop : op s = s.raise .invalidBlockSize) :
    gate i op s = .next { s with fg := { s.fg with err := 6 }, fatal := true } :=
  h.gate_eq hi (hop.trans (State.raise_invalidBlockSize_fg h.1))

variable {inRange : Prop} [Decidable inRange]

/-- On a supported size an index outside the block is a RangeError (R194). -/
theorem FgReady.gate_ilvCheck_outside (h : FgReady s) (hi : permitted i .fg = true) (hn : supported s.cfg n = true)
    (hout : ¬ inRange) : gate i (State.ilvCheck n (decide inRange) op) s = .next (onlyErr s 8) := by
  refine h.gate_eq hi ?_
  rw [State.ilvCheck, if_neg (by simp [hn]), if_pos (decide_eq_false hout), s.raise_rangeError]

/-- On a supported size an index inside the block runs the command's own operation. -/
theorem FgReady.gate_ilvCheck_inside (h : FgReady s) (hi : permitted i .fg = true) (hn : supported s.cfg n = true)
    (hin : inRange) : gate i (State.ilvCheck n (decide inRange) op) s = .next (op s) := by
  refine h.gate_eq hi ?_
  rw [State.ilvCheck, if_neg (by simp [hn]), if_neg (by simp [hin])]

end IlvCommands

end Sys2Proof.Machine

namespace Sys2Proof.Proofs

open Sys2Proof.Machine

/-- Settles O12: each of the commands begins with the size check. -/
theorem unsupportedBlockSizeIsFatal : Obligations.UnsupportedBlockSizeIsFatal := by
  refine fun s h => ⟨fun n hn => ⟨fun idx => ?phys, fun idx => ?getbit, fun v idx => ?setbit, fun k => ?getbyte,
    fun k v => ?setbyte⟩, fun hk => ⟨fun ty n => ?frame, ?deframe, ?tick⟩⟩
  case phys | getbit | setbit | getbyte | setbyte => exact h.gate_invalidBlockSize rfl (if_pos hn)
  case frame =>
    change execFrmFrame ty n s = _
    exact h.gate_invalidBlockSize rfl (if_pos hk)
  case deframe =>
    change execFrmDeframe s = _
    exact h.gate_invalidBlockSize rfl (if_pos hk)
  case tick =>
    change execSchTick s = _
    exact h.gate_invalidBlockSize rfl (if_pos hk)

/-- Settles O30: the stride is a unit modulo `8n` on a supported size, and a formula that takes the value 1 has a unit
for its stride. -/
theorem supportedMeansBijective : Obligations.SupportedMeansBijective := by
  refine fun c n => ⟨fun h1 h255 => ⟨fun h p hp => phys_surj h hp, fun hsurj => ?_⟩, fun h => ⟨fun i hi => ?_,
    fun p hp => ?_⟩, phys_zero c n⟩
  · obtain ⟨i, -, hi⟩ := hsurj 1 (by omega)
    exact supported_of_phys_eq_one h1 h255 hi
  · exact phys_lt c ((supported_iff c n).1 h).1 i
  · obtain ⟨i, hi, hp⟩ := phys_surj h hp
    exact ⟨i, ⟨hi, hp⟩, fun j ⟨hj, hjp⟩ => phys_inj h hj hi (hjp.trans hp.symm)⟩

/-- Settles O31: inside the block each command answers its value, outside it none does. -/
theorem ilvReads : Obligations.IlvReads := by
  refine fun s n h hn => ⟨fun idx hidx => ⟨?phys, ?getbit⟩, fun idx hidx => ⟨?physOut, ?getbitOut⟩, fun k hk => ?getbyte,
    fun k hk => ?getbyteOut⟩
  case phys =>
    refine (h.gate_ilvCheck_inside rfl hn hidx).trans ?_
    rw [State.answer_fg h.1, phys, strideOf]
  case getbit =>
    refine (h.gate_ilvCheck_inside rfl hn hidx).trans ?_
    rw [State.answer_fg h.1, physBit, byteBit_toNat]
  case getbyte =>
    refine ⟨gatherByte s.cfg n (s.rd .blk) k, (h.gate_ilvCheck_inside rfl hn hk).trans ?_,
      fun j hj => gatherByte_getLsbD _ _ _ _ hj⟩
    rw [State.answer_fg h.1]
  case physOut | getbitOut | getbyteOut => exact h.gate_ilvCheck_outside rfl hn (by omega)

/-- Settles O32: inside the block the command writes one byte of BLK, with one bit replaced. -/
theorem ilvSetbitChangesOneBit : Obligations.IlvSetbitChangesOneBit := by
  refine fun s n idx v h hn => ⟨fun hidx => ⟨_, h.gate_ilvCheck_inside rfl hn hidx, fun j hj => ?_, fun st a hne => ?_,
    State.done_frame_of_mem h.1 (s.setBlkBit_eq _ v)⟩, fun hidx => h.gate_ilvCheck_outside rfl hn hidx.not_gt⟩
  · rw [State.done_rd, State.rd_setBlkBit, if_pos ⟨rfl, rfl⟩, setByteBit_getLsbD _ _ _ hj]
  · rw [State.done_rd, State.rd_setBlkBit, if_neg hne]

/-- Settles O33: inside the block the command is `set_byte` on BLK, whose eight places are distinct. -/
theorem ilvSetbyteScatters : Obligations.IlvSetbyteScatters := by
  refine fun s n k val h hn => ⟨fun hk => ?_, fun hk => h.gate_ilvCheck_outside rfl hn hk.not_gt⟩
  obtain ⟨hset, hkeep, hbytes, hframe, -⟩ := State.scatterBlk_spec hn hk val
  refine ⟨_, h.gate_ilvCheck_inside rfl hn hk, ?_, ?_, ?_, State.done_frame_of_mem h.1 hframe⟩
  · simpa only [State.done_rd] using hset
  · simpa only [State.done_rd] using hkeep
  · simpa only [SameBytesBut, State.done_rd] using hbytes

/-- Settles O34: each bit goes to its place and comes back from it. -/
theorem deinterleaveUndoesInterleave : Obligations.DeinterleaveUndoesInterleave := fun c n block h hl =>
  ⟨interleave_length c n block, deinterleave_length c n block,
    fun _ hi => ⟨blockBit_interleave h block hi, blockBit_deinterleave c n block hi⟩, deinterleave_interleave h hl⟩

end Sys2Proof.Proofs

/-! SUPPORT. The statements on `spec/43_framer.md`: what FRM.FRAME and FRM.DEFRAME leave (R212, R213, R216, R217, R220,
R221), and that deframing undoes framing as far as the codec does (R219). -/

namespace Sys2Proof.Machine

/-! ## Reading a sequence back (R12) -/

/-- A sequence that every read of the first `n` bytes agrees with is what `MemRead` gives. -/
theorem State.readBytes_eq_of_rd {s : State} {st : Store} {n : Nat} {bs : List Byte} (hl : bs.length = n)
    (h : ∀ a, a < n → s.rd st a = bs.getD a 0) : s.readBytes st n = bs := by
  refine List.ext_getElem (by rw [State.readBytes_length, hl]) fun a ha hb => ?_
  rw [State.readBytes_getElem, h a (hl ▸ hb), List.getD_eq_getElem]

theorem State.readBytes_getD (s : State) (st : Store) {n a : Nat} (ha : a < n) :
    (s.readBytes st n).getD a 0 = s.rd st a := by
  have hl : a < (s.readBytes st n).length := by rwa [State.readBytes_length]
  rw [List.getD_eq_getElem _ _ hl, State.readBytes_getElem]

theorem State.answer_readBytes (s : State) (v : Half) (st : Store) (n : Nat) :
    (s.answer v).readBytes st n = s.readBytes st n :=
  List.map_congr_left fun a _ => s.answer_rd v st a

theorem SameBytesBut.answer {p : Store → Nat → Prop} {s t : State} (h : SameBytesBut p s t) (v : Half) :
    SameBytesBut p s (t.answer v) := fun st a hne => (t.answer_rd v st a).trans (h st a hne)

/-- A command that begins with the size check runs the rest of its Operation on a supported FEC_K (R214). -/
theorem FgReady.gate_supported {s : State} {i : Instr} (h : FgReady s) (hi : permitted i .fg = true)
    (hk : supported s.cfg s.cfg.fecK = true) (op : State → State) :
    gate i (fun t => if supported t.cfg t.cfg.fecK = false then t.raise .invalidBlockSize else op t) s =
      .next (op s) :=
  h.gate_eq hi (if_neg (by simp [hk]))

/-! ## Framing (R212, R213, R220) -/

/-- Cutting and padding, with the pad counted from the payload's own length (R212). -/
theorem padBlock_eq (c : Config) (payload : List Byte) :
    padBlock c payload = payload.take c.fecK ++ List.replicate (c.fecK - payload.length) 0 := by
  have hpad : c.fecK - min payload.length c.fecK = c.fecK - payload.length := by omega
  rw [padBlock, hpad]

/-- A frame is its header and the encoding of its interleaved block (R212, R213). -/
theorem frame_radio (c : Config) (type seq sender : Byte) (netid : Half) (payload : List Byte) :
    (frame c type seq sender netid payload).1 =
      frameHeader type seq sender netid (min payload.length c.fecK)
        ++ fecEncode c (frame c type seq sender netid payload).2 := rfl

section FrmFrame

variable {s : State} {radio block : List Byte} {n m : Nat}

theorem State.readBytes_storeFrame_blk (hb : block.length = n) :
    (s.storeFrame radio block).readBytes .blk n = block :=
  State.readBytes_eq_of_rd hb fun a ha => by
    rw [State.rd_storeFrame, if_neg (by simp), if_pos ⟨rfl, hb ▸ ha⟩]

theorem State.readBytes_storeFrame_txb (hr : radio.length = m) :
    (s.storeFrame radio block).readBytes .txb m = radio :=
  State.readBytes_eq_of_rd hr fun a ha => by
    rw [State.rd_storeFrame, if_pos ⟨rfl, hr ▸ ha⟩]

theorem State.storeFrame_sameBytes (hb : block.length = n) (hr : radio.length = m) :
    SameBytesBut (fun st a => (st = .blk ∧ a < n) ∨ (st = .txb ∧ a < m)) s (s.storeFrame radio block) := by
  intro st a hne
  obtain ⟨hblk, htxb⟩ := not_or.1 hne
  rw [State.rd_storeFrame, hr, hb, if_neg htxb, if_neg hblk]

/-- FRM.FRAME changes memory and its result only (R220). -/
theorem State.storeFrame_answer_frame (hp : s.port = .fg) (radio block : List Byte) (v : Half) :
    { (s.storeFrame radio block).answer v with mem := s.mem } = { s with fg := ⟨v, 0⟩ } := by
  have hpt : (s.storeFrame radio block).port = .fg := by rw [State.storeFrame_eq, hp]
  rw [State.answer_fg hpt, State.storeFrame_eq]

theorem exec_frmFrame (h : FgReady s) (hk : supported s.cfg s.cfg.fecK = true) (type : Byte) (len : Nat) :
    exec (.frmFrame type len) s =
      .next ((s.storeFrame (s.frameOf type (s.readBytes .pay len)).1 (s.frameOf type (s.readBytes .pay len)).2).answer
        (BitVec.ofNat 16 s.cfg.frameLen)) := by
  change execFrmFrame type len s = _
  rw [execFrmFrame, h.gate_supported rfl hk]

end FrmFrame

/-! ## Deframing (R216, R217) -/

/-- The packet a radio block carries, given what the decoder made of its body (R216). -/
def receivedPacket (c : Config) (radio block : List Byte) (corrected : Nat) : Deframed where
  type := radio.getD 0 0
  seq := radio.getD 1 0
  sender := radio.getD 2 0
  netid := frameNetid radio
  payload := (deinterleave c c.fecK block).take (radio.getD 5 0).toNat
  corrected := corrected
  block := block

section Deframe

variable {c : Config} {radio body block : List Byte} {corrected : Nat}

theorem deframe_of_lt (hlen : c.fecK < (radio.getD 5 0).toNat) : deframe c radio = .badLength := if_pos hlen

/-- The decoder gets all of a body that has FEC_N bytes (R216). -/
theorem frameBody_eq (hbody : radio.drop 6 = body) (hl : body.length = c.fecN) :
    (radio.drop Config.hdrLen).take c.fecN = body := by
  rw [Config.hdrLen, hbody, List.take_of_length_le hl.le]

theorem deframe_of_uncorrectable (hlen : (radio.getD 5 0).toNat ≤ c.fecK) (hbody : radio.drop 6 = body)
    (hl : body.length = c.fecN) (hd : fecDecode c body = .uncorrectable) : deframe c radio = .uncorrectable := by
  rw [deframe, if_neg hlen.not_gt, frameBody_eq hbody hl, hd]

theorem deframe_of_ok (hlen : (radio.getD 5 0).toNat ≤ c.fecK) (hbody : radio.drop 6 = body)
    (hl : body.length = c.fecN) (hd : fecDecode c body = .ok block corrected) :
    deframe c radio = .ok (receivedPacket c radio block corrected) := by
  rw [deframe, if_neg hlen.not_gt, frameBody_eq hbody hl, hd, receivedPacket]

theorem receivedPacket_payload_length (hlen : (radio.getD 5 0).toNat ≤ c.fecK) :
    (receivedPacket c radio block corrected).payload.length = (radio.getD 5 0).toNat := by
  rw [receivedPacket, List.length_take, deinterleave_length, min_eq_left hlen]

end Deframe

/-! ## FRM.DEFRAME (R221) -/

section FrmDeframe

variable {s : State} {d : Deframed} {n m : Nat}

theorem State.readBytes_storeDeframed_blk (hb : d.block.length = n) :
    (s.storeDeframed d).readBytes .blk n = d.block :=
  State.readBytes_eq_of_rd hb fun a ha => by
    rw [State.rd_storeDeframed, if_neg (by simp), if_pos ⟨rfl, hb ▸ ha⟩]

theorem State.readBytes_storeDeframed_pay (hp : d.payload.length = m) :
    (s.storeDeframed d).readBytes .pay m = d.payload :=
  State.readBytes_eq_of_rd hp fun a ha => by
    rw [State.rd_storeDeframed, if_pos ⟨rfl, hp ▸ ha⟩]

theorem State.storeDeframed_sameBytes (hb : d.block.length = n) (hp : d.payload.length = m) :
    SameBytesBut (fun st a => (st = .blk ∧ a < n) ∨ (st = .pay ∧ a < m)) s (s.storeDeframed d) := by
  intro st a hne
  obtain ⟨hblk, hpay⟩ := not_or.1 hne
  rw [State.rd_storeDeframed, hp, hb, if_neg hpay, if_neg hblk]

/-- FRM.DEFRAME changes, beside the memory, its result, CORR and the received-header registers (R221). -/
theorem State.storeDeframed_answer_frame (hp : s.port = .fg) (d : Deframed) (v : Half) :
    { (s.storeDeframed d).answer v with mem := s.mem } =
      { s with
        rx := ⟨d.type, d.seq, d.sender, d.netid, BitVec.ofNat 8 d.payload.length⟩
        corr := sat16 d.corrected
        fg := ⟨v, 0⟩ } := by
  have hpt : (s.storeDeframed d).port = .fg := by rw [State.storeDeframed_eq, hp]
  rw [State.answer_fg hpt, State.storeDeframed_eq]
  rfl

theorem exec_frmDeframe_of_badLength (h : FgReady s) (hk : supported s.cfg s.cfg.fecK = true)
    (hd : deframe s.cfg (s.readBytes .rxb s.cfg.frameLen) = .badLength) :
    exec .frmDeframe s = .next (onlyErr s 11) := by
  change execFrmDeframe s = _
  rw [execFrmDeframe, h.gate_supported rfl hk, hd]
  exact congrArg _ (s.raise_eq_onlyErr (by decide))

theorem exec_frmDeframe_of_uncorrectable (h : FgReady s) (hk : supported s.cfg s.cfg.fecK = true)
    (hd : deframe s.cfg (s.readBytes .rxb s.cfg.frameLen) = .uncorrectable) :
    exec .frmDeframe s = .next (onlyErr s 3) := by
  change execFrmDeframe s = _
  rw [execFrmDeframe, h.gate_supported rfl hk, hd]
  exact congrArg _ (s.raise_eq_onlyErr (by decide))

theorem exec_frmDeframe_of_ok (h : FgReady s) (hk : supported s.cfg s.cfg.fecK = true)
    (hd : deframe s.cfg (s.readBytes .rxb s.cfg.frameLen) = .ok d) :
    exec .frmDeframe s = .next ((s.storeDeframed d).answer (BitVec.ofNat 16 d.payload.length)) := by
  change execFrmDeframe s = _
  rw [execFrmDeframe, h.gate_supported rfl hk, hd]

end FrmDeframe

/-! ## The round trip (R219) -/

/-- The network id comes back from the two header bytes that carry it (R213). -/
theorem frameNetid_frameHeader (type seq sender : Byte) (netid : Half) (len : Nat) (body : List Byte) :
    frameNetid (frameHeader type seq sender netid len ++ body) = netid := by
  refine BitVec.eq_of_toNat_eq ?_
  change (BitVec.ofNat 16 ((BitVec.ofNat 8 (netid.toNat % 256)).toNat
    + 256 * (BitVec.ofNat 8 (netid.toNat / 256)).toNat)).toNat = netid.toNat
  have := netid.isLt
  simp only [BitVec.toNat_ofNat]
  omega

section RoundTrip

variable {c : Config} {type seq sender : Byte} {netid : Half} {payload body : List Byte} {flips : Nat}

theorem frame_radio_of_le (h : payload.length ≤ c.fecK) :
    (frame c type seq sender netid payload).1 =
      frameHeader type seq sender netid payload.length ++ fecEncode c (frame c type seq sender netid payload).2 := by
  rw [frame_radio, min_eq_left h]

/-- The LEN byte holds any length up to FEC_K, for a supported FEC_K fits a byte (R183, R213). -/
theorem frameHeader_len (hk : supported c c.fecK = true) (h : payload.length ≤ c.fecK) :
    ((frameHeader type seq sender netid payload.length ++ body).getD 5 0).toNat = payload.length := by
  have h255 := ((supported_iff c c.fecK).1 hk).2.1
  change (BitVec.ofNat 8 payload.length).toNat = payload.length
  rw [BitVec.toNat_ofNat, Nat.mod_eq_of_lt (by omega)]

/-- De-interleaving the block that was sent and cutting it to the true length gives the payload (R191, R218). -/
theorem deinterleave_frame_take (hk : supported c c.fecK = true) (h : payload.length ≤ c.fecK) :
    (deinterleave c c.fecK (frame c type seq sender netid payload).2).take payload.length = payload := by
  rw [frame, deinterleave_interleave hk (padBlock_length c payload), padBlock_take h]

/-- Where the decoder gives the sent block back, `Deframe` gives payload and header back (R219). -/
theorem deframe_sent_of_ok (hk : supported c c.fecK = true) (h : payload.length ≤ c.fecK) (hl : body.length = c.fecN)
    (hd : fecDecode c body = .ok (frame c type seq sender netid payload).2 flips) :
    deframe c (frameHeader type seq sender netid payload.length ++ body) =
      .ok ⟨type, seq, sender, netid, payload, flips, (frame c type seq sender netid payload).2⟩ := by
  have hlen := frameHeader_len (type := type) (seq := seq) (sender := sender) (netid := netid) (body := body) hk h
  rw [deframe_of_ok (hlen.trans_le h) rfl hl hd, receivedPacket, frameNetid_frameHeader, hlen,
    deinterleave_frame_take hk h]
  rfl

end RoundTrip

end Sys2Proof.Machine

namespace Sys2Proof.Proofs

open Sys2Proof.Machine

/-- Settles O35: the command stores `Frame` of the payload it reads, whose lengths are FEC_K and FRAME_LEN. -/
theorem frmFrameBuildsTheFrame : Obligations.FrmFrameBuildsTheFrame := by
  intro s type len h hk
  have hb := frame_block_length s.cfg type s.sch.txSeq s.tun.nodeid s.tun.netid (s.readBytes .pay len)
  have hr := frame_radio_length s.cfg type s.sch.txSeq s.tun.nodeid s.tun.netid (s.readBytes .pay len)
  refine ⟨_, exec_frmFrame h hk type len, ?_⟩
  have hpad := padBlock_eq s.cfg (s.readBytes .pay len)
  rw [State.readBytes_length] at hpad
  rw [← hpad]
  refine ⟨?blk, ?txb, (State.storeFrame_sameBytes hb hr).answer _, State.storeFrame_answer_frame h.1 _ _ _⟩
  case blk => exact (State.answer_readBytes ..).trans (State.readBytes_storeFrame_blk hb)
  case txb =>
    refine (State.answer_readBytes ..).trans ((State.readBytes_storeFrame_txb hr).trans ?_)
    rw [frame_radio, State.readBytes_length]
    rfl

/-- Settles O36, by the length byte and then by the decoder's answer. -/
theorem frmDeframeDecodesRxb : Obligations.FrmDeframeDecodesRxb := by
  intro s h hk len body
  have hbyte : ∀ a, a < 6 → (s.readBytes .rxb s.cfg.frameLen).getD a 0 = s.rd .rxb a := fun a ha =>
    s.readBytes_getD .rxb (Nat.lt_add_right s.cfg.fecN ha)
  have hlen : ((s.readBytes .rxb s.cfg.frameLen).getD 5 0).toNat = len := congrArg _ (hbyte 5 (by decide))
  have hbody : (s.readBytes .rxb s.cfg.frameLen).drop 6 = body := rfl
  have hl : body.length = s.cfg.fecN := by simp [body]
  refine ⟨fun hlt => ?bad, fun hle hd => ?uncorrectable, fun block corrected hle hd hb => ?ok⟩
  case bad => exact exec_frmDeframe_of_badLength h hk (deframe_of_lt (hlt.trans_eq hlen.symm))
  case uncorrectable =>
    exact exec_frmDeframe_of_uncorrectable h hk (deframe_of_uncorrectable (hlen.trans_le hle) hbody hl hd)
  case ok =>
    have hp := (receivedPacket_payload_length (block := block) (corrected := corrected) (hlen.trans_le hle)).trans hlen
    refine ⟨_, exec_frmDeframe_of_ok h hk (deframe_of_ok (hlen.trans_le hle) hbody hl hd), ?blk, ?pay,
      (State.storeDeframed_sameBytes hb hp).answer _, ?frame⟩
    case blk => exact (State.answer_readBytes ..).trans (State.readBytes_storeDeframed_blk hb)
    case pay =>
      refine (State.answer_readBytes ..).trans ((State.readBytes_storeDeframed_pay hp).trans ?_)
      rw [receivedPacket, hlen]
    case frame =>
      have hrxlen : BitVec.ofNat 8 len = s.rd .rxb 5 := (BitVec.ofNat_toNat 8 _).trans (BitVec.setWidth_eq _)
      rw [State.storeDeframed_answer_frame h.1, hp, hrxlen, receivedPacket, frameNetid,
        hbyte 0 (by decide), hbyte 1 (by decide), hbyte 2 (by decide), hbyte 3 (by decide), hbyte 4 (by decide), sat16]

/-- Settles O37: the header is untouched, so everything hangs on what the decoder makes of the body. -/
theorem framerRoundTrip : Obligations.FramerRoundTrip := by
  intro c type seq sender netid payload _ hk h sent
  have hsent : sent.1 = _ := frame_radio_of_le h
  refine ⟨fun hclean => ?clean, fun body hl => ⟨fun hcorrect hpos hle => ?correct, fun hdetect hlt => ?detect⟩⟩
  case clean =>
    rw [hsent]
    exact deframe_sent_of_ok hk h (fecEncode_length c _) hclean
  case correct =>
    rw [hsent, List.take_left' (frameHeader_length ..)]
    exact deframe_sent_of_ok hk h hl (hcorrect hpos hle)
  case detect =>
    rw [hsent, List.take_left' (frameHeader_length ..)]
    exact deframe_of_uncorrectable ((frameHeader_len hk h).trans_le h) rfl hl (hdetect hlt)

end Sys2Proof.Proofs

/-! SUPPORT. The statements on `spec/44_scheduler.md`: the scheduler commands (R262 to R265), the parts of a tick (R243 to R258),
a tick run to its end (R241), and what every step keeps (R261, R266, R267). -/

namespace Sys2Proof.Machine

/-! ## Commands that leave the scheduler alone -/

/-- The scheduler's registers and the event history are as they were. -/
def KeepsSched (s t : State) : Prop := t.sch = s.sch ∧ t.history = s.history

section KeepsSched

variable {s t : State}

theorem KeepsSched.refl (s : State) : KeepsSched s s := ⟨rfl, rfl⟩

theorem KeepsSched.done (h : KeepsSched s t) : KeepsSched s t.done := by simpa [KeepsSched] using h

theorem KeepsSched.answer (h : KeepsSched s t) (v : Half) : KeepsSched s (t.answer v) := by
  simpa [KeepsSched] using h

theorem KeepsSched.raise (s : State) (e : ErrCode) : KeepsSched s (s.raise e) := by simp [KeepsSched]

theorem KeepsSched.onlyErr (s : State) (code : Byte) : KeepsSched s (onlyErr s code) := by
  simp [KeepsSched, Machine.onlyErr]

/-- A gate leaves the scheduler alone if its Operation does: a refusal writes ERR only (R104). -/
theorem KeepsSched.of_gate {i : Instr} {op : State → State} (he : gate i op s = .next t)
    (hop : KeepsSched s (op s)) : KeepsSched s t := by
  obtain ⟨-, rfl⟩ | ⟨-, -, -, rfl⟩ | ⟨-, rfl⟩ := gate_cases he
  · exact .onlyErr s 9
  · exact .onlyErr s 10
  · exact hop

theorem KeepsSched.ilvCheck {op : State → State} (hop : KeepsSched s (op s)) (n : Nat) (inRange : Bool) :
    KeepsSched s (s.ilvCheck n inRange op) := by
  unfold State.ilvCheck
  split
  · exact .raise s _
  · split
    · exact .raise s _
    · exact hop

theorem KeepsSched.withRing {op : Ring → State → State} (hop : ∀ r, KeepsSched s (op r s)) (ring : Nat) :
    KeepsSched s (s.withRing ring op) := by
  unfold State.withRing
  split
  · exact hop _
  · exact .raise s _

/-! What a command does beside the scheduler: one lemma per command whose Operation is more than an answer. -/

theorem State.ringPut_keepsSched (s : State) (r : Ring) (b : Byte) : KeepsSched s (s.ringPut r b) := by
  cases r <;> exact .refl s

theorem State.ringDrop_keepsSched (s : State) (r : Ring) : KeepsSched s (s.ringDrop r) := by
  cases r <;> exact .refl s

theorem State.storeFrame_keepsSched (s : State) (radio block : List Byte) :
    KeepsSched s (s.storeFrame radio block) := by
  rw [State.storeFrame_eq]
  exact .refl s

theorem State.storeDeframed_keepsSched (s : State) (d : Deframed) : KeepsSched s (s.storeDeframed d) := by
  rw [State.storeDeframed_eq]
  exact .refl s

theorem State.scatterBlk_keepsSched (s : State) (n k : Nat) (val : Byte) : KeepsSched s (s.scatterBlk n k val) :=
  List.foldlRecOn (motive := KeepsSched s) _ _ (.refl s) fun _ h _ _ => h

theorem State.setCsr_keepsSched {r : Nat} {v : Half} (h : s.setCsr r v = some t) : KeepsSched s t := by
  unfold State.setCsr at h
  split at h <;> cases h <;> exact .refl s

theorem State.pushStep_keepsSched (s : State) (rest : List Byte) (count : Nat) :
    KeepsSched s (s.pushStep false rest count) := by
  unfold State.pushStep
  cases rest with
  | nil => exact .refl s
  | cons b more =>
    dsimp only
    rcases s.tryPush_cases .stx b with ⟨-, e⟩ | ⟨-, e⟩ <;> rw [e] <;> dsimp only
    · exact .refl s
    · split <;> exact .refl s

theorem State.popStep_keepsSched (s : State) (max count : Nat) : KeepsSched s (s.popStep max count) := by
  unfold State.popStep
  split
  · exact .refl s
  · rcases s.tryPop_cases .srx with ⟨-, e⟩ | ⟨-, e⟩ <;> rw [e] <;> dsimp only
    · exact .refl s
    · split <;> exact .refl s

/-- The handover of BR.DRAIN, if there is one, ends the command (R302, R307). -/
theorem State.endDrain_keepsSched (s : State) (popped : Bool) : KeepsSched s (s.endDrain false popped) := by
  unfold State.endDrain
  dsimp only
  rw [if_neg Bool.false_ne_true]
  cases s.handoverReady <;> exact .refl s

theorem State.drainStep_keepsSched (s : State) : KeepsSched s (s.drainStep false) := by
  unfold State.drainStep
  split
  · exact s.endDrain_keepsSched false
  · rcases s.tryPop_cases .srx with ⟨-, e⟩ | ⟨-, e⟩ <;> rw [e] <;> dsimp only
    · exact s.endDrain_keepsSched true
    · split
      · exact State.endDrain_keepsSched (State.appendBuild _ (s.ringDrop .srx)) true
      · exact .refl s

theorem KeepsSched.of_execMemRd {sp addr : Nat} (he : execMemRd sp addr s = .next t) : KeepsSched s t := by
  unfold execMemRd at he
  refine .of_gate he ?_
  split
  · exact .answer (.refl s) _
  · exact .raise s _

theorem KeepsSched.of_execMemWr {sp addr : Nat} {val : Byte} (he : execMemWr sp addr val s = .next t) :
    KeepsSched s t := by
  unfold execMemWr at he
  refine .of_gate he ?_
  split
  · exact .done (.refl s)
  · exact .raise s _

theorem KeepsSched.of_execCfgWr {r : Nat} {imm : Half} (he : execCfgWr r imm s = .next t) : KeepsSched s t := by
  unfold execCfgWr at he
  refine .of_gate he ?_
  split
  · exact (State.setCsr_keepsSched ‹_›).done
  · exact .raise s _

theorem KeepsSched.of_execCfgRd {r : Nat} (he : execCfgRd r s = .next t) : KeepsSched s t := by
  unfold execCfgRd at he
  refine .of_gate he ?_
  split
  · exact .answer (.refl s) _
  · exact .raise s _

theorem KeepsSched.of_execIlvSetbit {n idx : Nat} {v : Bool} (he : execIlvSetbit n v idx s = .next t) :
    KeepsSched s t := by
  unfold execIlvSetbit at he
  refine .of_gate he (.ilvCheck ?_ n _)
  exact .done (.refl s)

theorem KeepsSched.of_execIlvSetbyte {n k : Nat} {val : Byte} (he : execIlvSetbyte n k val s = .next t) :
    KeepsSched s t := by
  unfold execIlvSetbyte at he
  refine .of_gate he (.ilvCheck ?_ n _)
  exact (s.scatterBlk_keepsSched n k val).done

theorem KeepsSched.of_execFrmFrame {type : Byte} {len : Nat} (he : execFrmFrame type len s = .next t) :
    KeepsSched s t := by
  unfold execFrmFrame at he
  refine .of_gate he ?_
  split
  · exact .raise s _
  · exact (s.storeFrame_keepsSched _ _).answer _

theorem KeepsSched.of_execFrmDeframe (he : execFrmDeframe s = .next t) : KeepsSched s t := by
  unfold execFrmDeframe at he
  refine .of_gate he ?_
  split
  · exact .raise s _
  · split
    · exact .raise s _
    · exact .raise s _
    · exact (s.storeDeframed_keepsSched _).answer _

theorem KeepsSched.of_execSchHbreq (he : execSchHbreq s = .next t) : KeepsSched s t := by
  unfold execSchHbreq at he
  exact .of_gate he (.done (.refl s))

theorem KeepsSched.of_execSchHbclr (he : execSchHbclr s = .next t) : KeepsSched s t := by
  unfold execSchHbclr at he
  exact .of_gate he (.done (.refl s))

theorem KeepsSched.of_execSchSubmit {type : Byte} {len : Nat} (he : execSchSubmit type len s = .next t) :
    KeepsSched s t := by
  unfold execSchSubmit at he
  refine .of_gate he ?_
  split
  · exact .raise s _
  · split
    · exact .raise s _
    · exact .done (.refl s)

theorem KeepsSched.of_execSchRpclr (he : execSchRpclr s = .next t) : KeepsSched s t := by
  unfold execSchRpclr at he
  exact .of_gate he (.done (.refl s))

theorem KeepsSched.of_execRbPush {ring : Nat} {byte : Byte} (he : execRbPush ring byte s = .next t) :
    KeepsSched s t := by
  unfold execRbPush at he
  refine .of_gate he (.withRing (fun r => ?_) ring)
  rcases s.tryPush_cases r byte with ⟨-, e⟩ | ⟨-, e⟩ <;> rw [e]
  · cases r <;> simp [KeepsSched]
  · exact (s.ringPut_keepsSched r byte).answer 1

theorem KeepsSched.of_execRbPop {ring : Nat} (he : execRbPop ring s = .next t) : KeepsSched s t := by
  unfold execRbPop at he
  refine .of_gate he (.withRing (fun r => ?_) ring)
  rcases s.tryPop_cases r with ⟨-, e⟩ | ⟨-, e⟩ <;> rw [e]
  · exact .raise s _
  · exact (s.ringDrop_keepsSched r).answer _

theorem KeepsSched.of_execRbPeek {ring offset : Nat} (he : execRbPeek ring offset s = .next t) : KeepsSched s t := by
  unfold execRbPeek at he
  refine .of_gate he (.withRing (fun r => ?_) ring)
  split
  · exact .raise s _
  · exact .answer (.refl s) _

theorem KeepsSched.of_execRbReset {ring : Nat} (he : execRbReset ring s = .next t) : KeepsSched s t := by
  unfold execRbReset at he
  refine .of_gate he (.withRing (fun r => ?_) ring)
  cases r <;> exact .done (.refl s)

/-- Every command but CTL.RESET and SCH.TICK leaves the scheduler and the event history alone. -/
theorem KeepsSched.of_exec {i : Instr} (hctl : i ≠ .ctlReset) (htick : i ≠ .schTick) (he : exec i s = .next t) :
    KeepsSched s t := by
  cases i with
  | nop => exact .of_gate he (.done (.refl s))
  | memRd sp addr => exact .of_execMemRd he
  | memWr sp addr val => exact .of_execMemWr he
  | cfgWr r imm => exact .of_execCfgWr he
  | cfgRd r => exact .of_execCfgRd he
  | ctlReset => exact absurd rfl hctl
  | ilvGetbit n idx => exact .of_gate he (.ilvCheck (.answer (.refl s) _) n _)
  | ilvSetbit n v idx => exact .of_execIlvSetbit he
  | ilvGetbyte n k => exact .of_gate he (.ilvCheck (.answer (.refl s) _) n _)
  | ilvSetbyte n k val => exact .of_execIlvSetbyte he
  | ilvPhys n idx => exact .of_gate he (.ilvCheck (.answer (.refl s) _) n _)
  | frmFrame type len => exact .of_execFrmFrame he
  | frmDeframe => exact .of_execFrmDeframe he
  | schTick => exact absurd rfl htick
  | schHbreq => exact .of_execSchHbreq he
  | schHbclr => exact .of_execSchHbclr he
  | schSubmit type len => exact .of_execSchSubmit he
  | schRpclr => exact .of_execSchRpclr he
  | rbPush ring byte => exact .of_execRbPush he
  | rbPop ring => exact .of_execRbPop he
  | rbPeek ring offset => exact .of_execRbPeek he
  | rbFree ring => exact .of_gate he (.withRing (fun _ => .answer (.refl s) _) ring)
  | rbUsed ring => exact .of_gate he (.withRing (fun _ => .answer (.refl s) _) ring)
  | rbReset ring => exact .of_execRbReset he
  | rbPushs ring len => exact .of_gate he (.withRing (fun _ => s.pushStep_keepsSched _ 0) ring)
  | rbPops ring max => exact .of_gate he (.withRing (fun _ => s.popStep_keepsSched max 0) ring)
  | brDrain => exact .of_gate he s.drainStep_keepsSched
  | brRoom => exact .of_gate he (.answer (.refl s) _)
  | brDeliver len => exact .of_gate he (s.pushStep_keepsSched _ 0)

end KeepsSched

/-! ## What one step of a tick does -/

theorem SameBytesBut.trans {p : Store → Nat → Prop} {s t u : State} (h : SameBytesBut p s t)
    (h' : SameBytesBut p t u) : SameBytesBut p s u :=
  fun st a hp => (h' st a hp).trans (h st a hp)

/-- One byte goes from SRX to the end of the build buffer (R301). -/
def State.drainOne (s : State) : State := (s.ringDrop .srx).appendBuild (s.rd .srx s.srx.remove)

/-- What a tick does before its drain: TICKCOND is cleared and the gap timer runs (R241, R300). -/
def State.startTick (s : State) : State := { s with tickCond := 0 }.bridgeTimer

section Drain

variable {s t : State} {inTick : Bool}

theorem State.drainStep_of_full (h : s.tun.maxpay.toNat ≤ s.bridge.buildLen) :
    s.drainStep inTick = s.endDrain inTick false := if_pos h

theorem State.drainStep_of_empty (h : ¬ s.tun.maxpay.toNat ≤ s.bridge.buildLen) (he : s.ringEmpty .srx = true) :
    s.drainStep inTick = s.endDrain inTick true := by
  simp [State.drainStep, h, State.tryPop, he]

theorem State.drainStep_of_not_empty (h : ¬ s.tun.maxpay.toNat ≤ s.bridge.buildLen) (he : s.ringEmpty .srx = false) :
    s.drainStep inTick =
      if s.tun.maxpay.toNat ≤ s.bridge.buildLen + 1 then s.drainOne.endDrain inTick true
      else s.drainOne.suspend (.drain inTick) := by
  simp only [State.drainStep, h, State.tryPop, he]
  rfl

theorem State.rd_drainOne (s : State) (st : Store) (a : Nat) :
    s.drainOne.rd st a = if st = .build ∧ a = s.bridge.buildLen then s.rd .srx s.srx.remove else s.rd st a :=
  (s.ringDrop .srx).rd_wr .build st s.bridge.buildLen a _

theorem exec_schTick (h : FgReady s) (hk : supported s.cfg s.cfg.fecK = true) :
    exec .schTick s = .next (s.startTick.drainStep true) := by
  change execSchTick s = _
  rw [execSchTick, h.gate_supported rfl hk, State.startTick]

/-- SCH.TICK is refused, or starts its drain (R241). -/
theorem execSchTick_cases (he : execSchTick s = .next t) : KeepsSched s t ∨ t = s.startTick.drainStep true := by
  unfold execSchTick at he
  obtain ⟨-, rfl⟩ | ⟨-, -, -, rfl⟩ | ⟨-, rfl⟩ := gate_cases he
  · exact .inl (.onlyErr s 9)
  · exact .inl (.onlyErr s 10)
  · split
    · exact .inl (.raise s _)
    · exact .inr rfl

end Drain

/-- What T1 and T2 of a tick do to a state: they change no byte but those of `p`, make the oracle calls `calls`, and
leave alone what the scheduler has and reads. -/
structure TickPrefix (p : Store → Nat → Prop) (calls : List Event) (s w : State) : Prop where
  sched : SameSched s w
  bytes : SameBytesBut p s w
  history : w.history = s.history ++ calls

/-- What one step of a tick does: a part of T1 and T2, and if the tick ends with it, T3 and T4. -/
def TickOutcome (p : Store → Nat → Prop) (calls : List Event) (s t : State) : Prop :=
  TickPrefix p calls s t ∨ ∃ w, TickPrefix p calls s w ∧ t = w.finishTick

/-- The bytes of a frame and of its block, in every store a tick can put them in (R269). -/
def CoversFrames (p : Store → Nat → Prop) (c : Config) : Prop :=
  (∀ a, a < c.fecK → p .blk a ∧ p .pay a) ∧ ∀ a, a < c.frameLen → p .txb a ∧ p .rxb a

/-- The oracle calls of one receive step: at most one reception, then at most one dispatch (R243, R246). -/
def ReceiveCalls (calls : List Event) : Prop :=
  ∃ received dispatched, calls = received ++ dispatched
    ∧ (received = [] ∨ ∃ a, received = [.receive a]) ∧ (dispatched = [] ∨ ∃ q a, dispatched = [.dispatch q a])

section TickOutcome

variable {p : Store → Nat → Prop} {calls calls' : List Event} {s t u : State}

theorem TickPrefix.trans (h : TickPrefix p calls s t) (h' : TickPrefix p calls' t u) :
    TickPrefix p (calls ++ calls') s u :=
  ⟨h.sched.trans h'.sched, h.bytes.trans h'.bytes, by rw [h'.history, h.history, List.append_assoc]⟩

theorem TickPrefix.outcome (h : TickPrefix p calls s t) (h' : TickOutcome p calls' t u) :
    TickOutcome p (calls ++ calls') s u := by
  rcases h' with h' | ⟨w, hw, rfl⟩
  · exact .inl (h.trans h')
  · exact .inr ⟨w, h.trans hw, rfl⟩

/-- A state that differs in nothing the scheduler reads, in no byte but those of `p`, and not in the event history. -/
theorem TickPrefix.silent (hs : SameSched s t) (hb : SameBytesBut p s t) (hh : t.history = s.history) :
    TickPrefix p [] s t :=
  ⟨hs, hb, by rw [hh, List.append_nil]⟩

theorem TickPrefix.setCondIf (p : Store → Nat → Prop) (s : State) (q : Bool) (b : Nat) :
    TickPrefix p [] s (s.setCondIf q b) :=
  .silent (.setCondIf s q b) (fun _ _ _ => State.setCondIf_rd ..) (State.setCondIf_history ..)

theorem TickPrefix.suspend (h : TickPrefix p calls s t) (b : Bulk) : TickPrefix p calls s (t.suspend b) :=
  ⟨h.sched.trans ⟨rfl, rfl, rfl, rfl, rfl, rfl, rfl, rfl, rfl⟩, h.bytes, h.history⟩

theorem TickPrefix.onPort (h : TickPrefix p calls s t) (port : Port) : TickPrefix p calls s (t.onPort port) :=
  ⟨h.sched.trans ⟨rfl, rfl, rfl, rfl, rfl, rfl, rfl, rfl, rfl⟩, h.bytes, h.history⟩

theorem State.startTick_prefix (p : Store → Nat → Prop) (s : State) : TickPrefix p [] s s.startTick := by
  rw [State.startTick, State.bridgeTimer_eq]
  exact .silent ⟨rfl, rfl, rfl, rfl, rfl, rfl, rfl, rfl, rfl⟩ (fun _ _ _ => rfl) rfl

theorem State.endPush_outcome (p : Store → Nat → Prop) (s : State) (full : Bool) (count : Nat) :
    TickOutcome p [] s (s.endPush true full count) :=
  .inr ⟨_, (TickPrefix.setCondIf p s true condRxDelivered).trans (.setCondIf p _ full condRxOverflow), rfl⟩

/-- One push of a delivery writes at the insert cursor of STX (R245). -/
theorem State.pushStep_outcome (hstx : p .stx s.stx.insert) (rest : List Byte) (count : Nat) :
    TickOutcome p [] s (s.pushStep true rest count) := by
  unfold State.pushStep
  cases rest with
  | nil => exact s.endPush_outcome p _ _
  | cons b more =>
    have put : TickPrefix p [] s (s.ringPut .stx b) :=
      .silent ⟨rfl, rfl, rfl, rfl, rfl, rfl, rfl, rfl, rfl⟩
        (fun st a hp => by
          rw [State.rd_ringPut, if_neg]
          rintro ⟨rfl, rfl⟩
          exact hp hstx) rfl
    dsimp only
    rcases s.tryPush_cases .stx b with ⟨-, e⟩ | ⟨-, e⟩ <;> rw [e] <;> dsimp only
    · have count : TickPrefix p [] s (s.countOverflow .stx) :=
        .silent ⟨rfl, rfl, rfl, rfl, rfl, rfl, rfl, rfl, rfl⟩ (fun _ _ _ => rfl) rfl
      exact count.outcome (State.endPush_outcome p _ _ _)
    · split
      · exact put.outcome (State.endPush_outcome p _ _ _)
      · exact .inl (put.suspend _)

/-- A frame of this network is dispatched at most once (R244, R246). -/
theorem State.receiveFrame_calls (s : State) (radio : List Byte) :
    (s.receiveFrame radio).2.history = s.history
      ∨ ∃ q a, (s.receiveFrame radio).2.history = s.history ++ [.dispatch q a] := by
  unfold State.receiveFrame
  split
  · exact .inl rfl
  · exact .inl rfl
  · rename_i d _
    have stored : ∀ t : State, t.history = s.history →
        (t.remoteAt d.payload).history = s.history ++ [.dispatch d.payload (t.askDispatch d.payload).1] := by
      intro t ht
      rw [← ht]
      unfold State.remoteAt
      dsimp only
      split <;> rfl
    have counted : (if 0 < d.corrected then
        { s.storeDeframed d with cnt := { (s.storeDeframed d).cnt with corr := satInc (s.storeDeframed d).cnt.corr } }
        else s.storeDeframed d).history = s.history := by
      rw [State.storeDeframed_eq]
      split <;> rfl
    unfold State.acceptPacket
    dsimp only
    split
    · exact .inl counted
    · split
      · exact .inr ⟨_, _, stored _ counted⟩
      · exact .inl counted

/-- The receive step asks the radio once, and then dispatches at most once (R243, R246). -/
theorem State.receiveStep_calls (s : State) :
    ∃ calls, ReceiveCalls calls ∧ s.receiveStep.2.history = s.history ++ calls := by
  have asked : ∃ a, s.askReceive.2.history = s.history ++ [.receive a] := ⟨_, rfl⟩
  obtain ⟨a, asked⟩ := asked
  have only : ∀ t : State, t.history = s.askReceive.2.history →
      ∃ calls, ReceiveCalls calls ∧ t.history = s.history ++ calls := fun t ht =>
    ⟨[.receive a], ⟨_, [], rfl, .inr ⟨a, rfl⟩, .inl rfl⟩, ht.trans asked⟩
  unfold State.receiveStep
  dsimp only
  split
  · exact only _ rfl
  · split
    · exact only _ rfl
    · have hstored := State.writeBytes_history (s.askReceive.2.setCond condRxFrame)
      split
      · exact only _ (by simp)
      · rcases State.receiveFrame_calls ((s.askReceive.2.setCond condRxFrame).writeBytes .rxb 0 _) _ with h | ⟨q, b, h⟩
        · exact only _ (h.trans (by simp))
        · refine ⟨[.receive a, .dispatch q b], ⟨[_], [_], rfl, .inr ⟨a, rfl⟩, .inr ⟨q, b, rfl⟩⟩, ?_⟩
          rw [h, State.writeBytes_history, State.setCond_history, asked, List.append_assoc]
          rfl

/-- The receive step writes RXB and what a deframed packet fills (R243, R244). -/
theorem State.receiveStep_prefix (hp : CoversFrames p s.cfg) :
    ∃ calls, ReceiveCalls calls ∧ TickPrefix p calls s s.receiveStep.2 := by
  obtain ⟨calls, hcalls, hh⟩ := s.receiveStep_calls
  refine ⟨calls, hcalls, s.receiveStep_sched, fun st a hpa => s.receiveStep_effect.bytes st a ?_, hh⟩
  rintro (⟨rfl, ha⟩ | ⟨rfl, ha⟩ | ⟨rfl, ha⟩)
  · exact hpa (hp.2 a ha).2
  · exact hpa (hp.1 a ha).1
  · exact hpa (hp.1 a ha).2

theorem State.tickReceive_outcome (hp : CoversFrames p s.cfg) (hstx : p .stx s.stx.insert) (popped : Bool) :
    ∃ calls, ReceiveCalls calls ∧ TickOutcome p calls s (s.tickReceive popped) := by
  obtain ⟨calls, hcalls, h⟩ := State.receiveStep_prefix hp
  have hkeep := congrArg State.stx s.receiveStep_effect.same
  refine ⟨calls, hcalls, ?_⟩
  unfold State.tickReceive
  generalize s.receiveStep = rs at *
  obtain ⟨delivery, t⟩ := rs
  change t.stx = s.stx at hkeep
  cases delivery with
  | none => exact .inr ⟨t, h, rfl⟩
  | some payload =>
    dsimp only
    split
    · exact .inl (h.suspend _)
    · simpa using h.outcome (State.pushStep_outcome (hkeep ▸ hstx) payload 0)

theorem State.endDrain_outcome (hp : CoversFrames p s.cfg) (hstx : p .stx s.stx.insert) (popped : Bool) :
    ∃ calls, ReceiveCalls calls ∧ TickOutcome p calls s (s.endDrain true popped) := by
  have hand : TickPrefix p [] s (if s.handoverReady then s.handover else s) := by
    split <;> exact .silent ⟨rfl, rfl, rfl, rfl, rfl, rfl, rfl, rfl, rfl⟩ (fun _ _ _ => rfl) rfl
  have h := hand.trans (.setCondIf p _ s.handoverReady condHandover)
  have hkeep : ((if s.handoverReady then s.handover else s).setCondIf s.handoverReady condHandover).stx = s.stx := by
    rw [State.setCondIf_stx]
    split <;> rfl
  obtain ⟨calls, hcalls, ho⟩ := State.tickReceive_outcome (h.sched.cfg ▸ hp) (hkeep ▸ hstx) popped
  exact ⟨calls, hcalls, h.outcome ho⟩

/-- One step of the drain of a tick stores at the end of the build buffer (R301). -/
theorem State.drainStep_outcome (hp : CoversFrames p s.cfg) (hstx : p .stx s.stx.insert)
    (hbuild : p .build s.bridge.buildLen) :
    ∃ calls, ReceiveCalls calls ∧ TickOutcome p calls s (s.drainStep true) := by
  by_cases hfull : s.tun.maxpay.toNat ≤ s.bridge.buildLen
  · rw [State.drainStep_of_full hfull]
    exact State.endDrain_outcome hp hstx _
  by_cases he : s.ringEmpty .srx = true
  · rw [State.drainStep_of_empty hfull he]
    exact State.endDrain_outcome hp hstx _
  have drained : TickPrefix p [] s s.drainOne :=
    .silent ⟨rfl, rfl, rfl, rfl, rfl, rfl, rfl, rfl, rfl⟩ (fun st a hpa => by
      rw [State.rd_drainOne, if_neg]
      rintro ⟨rfl, rfl⟩
      exact hpa hbuild) rfl
  rw [State.drainStep_of_not_empty hfull (by simpa using he)]
  split
  · obtain ⟨calls, hcalls, ho⟩ := State.endDrain_outcome (s := s.drainOne) hp hstx true
    exact ⟨calls, hcalls, drained.outcome ho⟩
  · exact ⟨[], ⟨[], [], rfl, .inl rfl, .inl rfl⟩, .inl (drained.suspend _)⟩

/-- One micro-step of a tick (R241). -/
theorem Bulk.step_outcome {b : Bulk} (hb : b.ofTick = true) (hp : CoversFrames p s.cfg) (hstx : p .stx s.stx.insert)
    (hbuild : p .build s.bridge.buildLen) :
    ∃ calls, ReceiveCalls calls ∧ TickOutcome p calls s (b.step s) := by
  cases b with
  | push inTick rest count =>
    obtain rfl : inTick = true := hb
    exact ⟨[], ⟨[], [], rfl, .inl rfl, .inl rfl⟩, State.pushStep_outcome hstx rest count⟩
  | pop max count => cases hb
  | drain inTick =>
    obtain rfl : inTick = true := hb
    exact State.drainStep_outcome hp hstx hbuild

/-- A micro-step of a bulk command other than SCH.TICK leaves the scheduler alone. -/
theorem Bulk.step_keepsSched {b : Bulk} (hb : b.ofTick = false) (s : State) : KeepsSched s (b.step s) := by
  cases b with
  | push inTick rest count =>
    obtain rfl : inTick = false := hb
    exact s.pushStep_keepsSched rest count
  | pop max count => exact s.popStep_keepsSched max count
  | drain inTick =>
    obtain rfl : inTick = false := hb
    exact s.drainStep_keepsSched

end TickOutcome

/-! ## What one step does with the scheduler -/

/-- A reset: LISTEN, every other register of the scheduler 0, no history (R371). -/
def ResetsSched (t : State) : Prop := t.sch = ⟨.listen, 0, 0, 0, 0, 0, 0, 0, 0, 0⟩ ∧ t.history = []

/-- The step is CTL.RESET or hardware reset. -/
def ResetMove (s : State) : Prop :=
  (∃ u, s.nextMove = .reset u) ∨ ∃ w u, s.nextMove = .command .fg w u ∧ decode w = .ok .ctlReset

/-- The step is SCH.TICK or one of its micro-steps. -/
def TickMove (s : State) : Prop :=
  (∃ w u, s.nextMove = .command .fg w u ∧ decode w = .ok .schTick)
  ∨ ∃ b u, s.bulk = some b ∧ b.ofTick = true ∧ s.nextMove = .micro u

section Step

variable {s t u : State}

/-- Choosing a move changes neither what the scheduler has nor what it reads. -/
theorem State.nextMove_prefix (p : Store → Nat → Prop) (s : State) : TickPrefix p [] s s.nextMove.state := by
  obtain ⟨program, preempt, e⟩ := s.nextMove_state
  rw [e]
  exact .silent ⟨rfl, rfl, rfl, rfl, rfl, rfl, rfl, rfl, rfl⟩ (fun _ _ _ => rfl) rfl

theorem State.nextMove_state_bulk (s : State) : s.nextMove.state.bulk = s.bulk := by
  obtain ⟨program, preempt, e⟩ := s.nextMove_state
  rw [e]

theorem KeepsSched.of_prefix (h : TickPrefix p [] s u) (h' : KeepsSched u t) : KeepsSched s t :=
  ⟨h'.1.trans h.sched.sch, h'.2.trans (by rw [h.history, List.append_nil])⟩

/-- CTL.RESET is permitted on FGCMD in every state (R345). -/
theorem exec_ctlReset (hp : s.port = .fg) : exec .ctlReset s = .next s.softReset :=
  gate_accepted (.of_exempt hp rfl rfl) _

/-- A command on FGCMD: a reset, a tick, or one that leaves the scheduler alone. -/
theorem exec_fg_sched (hp : s.port = .fg) {i : Instr} (he : exec i s = .next t) :
    KeepsSched s t ∨ (i = .ctlReset ∧ ResetsSched t)
    ∨ (i = .schTick ∧ ∃ calls, ReceiveCalls calls ∧ TickOutcome (fun _ _ => True) calls s t) := by
  by_cases hctl : i = .ctlReset
  · subst hctl
    rw [exec_ctlReset hp] at he
    cases he
    exact .inr (.inl ⟨rfl, rfl, rfl⟩)
  by_cases htick : i = .schTick
  · subst htick
    rcases execSchTick_cases he with h | rfl
    · exact .inl h
    · obtain ⟨calls, hcalls, ho⟩ := State.drainStep_outcome (p := fun _ _ => True) (s := s.startTick)
        ⟨fun _ _ => ⟨trivial, trivial⟩, fun _ _ => ⟨trivial, trivial⟩⟩ trivial trivial
      exact .inr (.inr ⟨rfl, calls, hcalls, (s.startTick_prefix _).outcome ho⟩)
  · exact .inl (.of_exec hctl htick he)

/-- A command on IRQCMD leaves the scheduler alone (R351). -/
theorem KeepsSched.of_exec_irq (hp : s.port = .irq) {i : Instr} (he : exec i s = .next t) : KeepsSched s t := by
  obtain ⟨code, -, rfl⟩ | ⟨v, rfl⟩ | ⟨b, -, rfl⟩ | ⟨-, rfl⟩ | ⟨-, rfl⟩ := irq_cases hp he
  · exact .onlyErr s code
  · exact .answer (.refl s) v
  · exact .answer (s.ringPut_keepsSched .srx b) 1
  · exact .refl s
  · exact .answer (s.ringDrop_keepsSched .stx) _

/-- One step leaves the scheduler alone, resets it, or is a step of a tick (R241, R261). -/
theorem step_sched (hs : step s = .next t) :
    KeepsSched s t ∨ (ResetMove s ∧ ResetsSched t)
    ∨ (TickMove s ∧ ∃ calls, ReceiveCalls calls ∧ TickOutcome (fun _ _ => True) calls s t) := by
  have hmove := s.nextMove_prefix fun _ _ => True
  have hbulk := s.nextMove_state_bulk
  obtain ⟨u, hm, rfl⟩ | ⟨u, hm, rfl⟩ | ⟨u, hm, rfl⟩ | ⟨p, w, u, i, hm, hd, he⟩ | ⟨p, w, u, e, hm, -, rfl⟩ :=
    step_cases hs <;> rw [hm] at hmove hbulk
  · exact .inl (.of_prefix hmove (.refl _))
  · obtain ⟨b, hb⟩ := Option.ne_none_iff_exists'.1 (s.nextMove_bulk.2.1 u hm)
    have hstep : u.microStep = b.step u := by rw [State.microStep, show u.bulk = some b from hbulk.trans hb]
    rw [hstep]
    cases ht : b.ofTick with
    | false => exact .inl (.of_prefix hmove (Bulk.step_keepsSched ht u))
    | true =>
      obtain ⟨calls, hcalls, ho⟩ := Bulk.step_outcome (p := fun _ _ => True) (s := u) ht
        ⟨fun _ _ => ⟨trivial, trivial⟩, fun _ _ => ⟨trivial, trivial⟩⟩ trivial trivial
      exact .inr (.inr ⟨.inr ⟨b, u, hb, ht, hm⟩, calls, hcalls, hmove.outcome ho⟩)
  · exact .inr (.inl ⟨.inl ⟨u, hm⟩, rfl, rfl⟩)
  · have hport := hmove.onPort p
    cases p with
    | irq => exact .inl (.of_prefix hport (.of_exec_irq rfl he))
    | fg =>
      obtain h | ⟨rfl, h⟩ | ⟨rfl, calls, hcalls, ho⟩ := exec_fg_sched rfl he
      · exact .inl (.of_prefix hport h)
      · exact .inr (.inl ⟨.inr ⟨w, u, hm, hd⟩, h⟩)
      · exact .inr (.inr ⟨.inl ⟨w, u, hm, hd⟩, calls, hcalls, hport.outcome ho⟩)
  · rw [State.illegal_eq]
    exact .inl (.of_prefix (hmove.onPort p) (.onlyErr (u.onPort p) 7))

end Step

/-! ## The duty-cycle bound (R266) -/

section DutyCycle

variable {s t : State}

/-- The bound stays where the window is as it was and DUTY is not lowered. -/
theorem DutyBound.of_sch_eq (h : DutyBound s) (hs : t.sch = s.sch)
    (hd : t.tun.duty = s.tun.duty ∨ (s.tun.duty ≠ 0 ∧ s.tun.duty.toNat ≤ t.tun.duty.toNat)) : DutyBound t := by
  intro hne
  rw [hs]
  rcases hd with hd | ⟨hne', hle⟩
  · exact hd ▸ h (hd ▸ hne)
  · exact (h hne').trans (Nat.mul_le_mul_right _ hle)

/-- The window after T3 meets the bound: it has one more tick in it, or is a new one with nothing transmitted (R247). -/
theorem DutyBound.dutyWindow (h : DutyBound s) (hc : s.cfg.wf = true) : DutyBound s.dutyWindow := by
  intro hne
  have htun : s.dutyWindow.tun = s.tun := by rw [State.dutyWindow_eq]
  rw [htun] at hne ⊢
  rcases State.dutyWindow_cases hc with ⟨-, he, ht⟩ | ⟨-, -, ht⟩
  · rw [he, ht]
    exact (h hne).trans (Nat.mul_le_mul_left _ (Nat.le_succ _))
  · rw [ht]
    exact Nat.zero_le _

/-- A state action charges the window only where the budget allows one more tick (R255, R256). -/
theorem DutyBound.of_action (h : DutyBound s) (e : ActionEffect s t) : DutyBound t := by
  intro hne
  have htun : t.tun = s.tun := by rw [e.same]
  have helapsed : t.sch.dcElapsed = s.sch.dcElapsed := by rw [e.same]
  rw [htun] at hne ⊢
  rw [helapsed]
  rcases e.charge with hcharge | ⟨hcharge, hbudget⟩ <;> rw [hcharge]
  · exact h hne
  · refine le_trans (Nat.mul_le_mul_right _ ?_) (hbudget hne)
    exact (BitVec.toNat_ofNat ..).trans_le (Nat.mod_le _ _)

theorem DutyBound.finishTick (h : DutyBound s) (hc : s.cfg.wf = true) : DutyBound s.finishTick := by
  have hrotate : DutyBound s.dutyWindow.slotRotate := by
    have hw := h.dutyWindow hc
    rw [State.slotRotate_eq]
    exact hw
  have haction := hrotate.of_action (State.stateAction_effect _)
  exact haction

theorem DutyBound.of_outcome {p : Store → Nat → Prop} {calls : List Event} (h : DutyBound s) (hc : s.cfg.wf = true)
    (ho : TickOutcome p calls s t) : DutyBound t := by
  have carry : ∀ {w}, TickPrefix p calls s w → DutyBound w := fun hw =>
    h.of_sch_eq hw.sched.sch (.inl (by rw [hw.sched.tun]))
  rcases ho with ht | ⟨w, hw, rfl⟩
  · exact carry ht
  · exact (carry hw).finishTick (hw.sched.cfg ▸ hc)

end DutyCycle

/-! ## Listen before talk (R267) -/

/-- The two kinds of call that R267 speaks of. -/
def Event.ofLbt : Event → Bool
  | .channelClear _ => true
  | .transmit _ _ => true
  | .receive _ => false
  | .dispatch _ _ => false
  | .setChannel _ => false
  | .readRssi _ => false

section ListenBeforeTalk

variable {s t : State} {h calls : List Event}

theorem lastClear_concat (h : List Event) (e : Event) :
    lastClear (h ++ [e]) = match e with | .channelClear a => a | _ => lastClear h := by
  rw [lastClear, List.foldl_append]
  rfl

/-- One more call keeps the order, if it is no transmission or the channel was clear. -/
theorem TransmitsOnlyWhenClear.concat (hh : TransmitsOnlyWhenClear h) {e : Event}
    (he : ∀ radio ok, e = .transmit radio ok → lastClear h = true) : TransmitsOnlyWhenClear (h ++ [e]) := by
  intro before rest radio ok heq
  obtain rfl | ⟨rest, last, rfl⟩ := rest.eq_nil_or_concat
  · obtain ⟨rfl, hlast⟩ := List.append_inj' heq rfl
    exact he radio ok (List.singleton_inj.1 hlast)
  · rw [List.concat_eq_append, ← List.cons_append, ← List.append_assoc] at heq
    exact hh before rest radio ok (List.append_inj' heq rfl).1

/-- Calls that R267 does not speak of change neither the order nor the last answer. -/
theorem lbt_append_other (hcalls : ∀ e ∈ calls, e.ofLbt = false) (hh : TransmitsOnlyWhenClear h) :
    TransmitsOnlyWhenClear (h ++ calls) ∧ lastClear (h ++ calls) = lastClear h := by
  induction calls generalizing h with
  | nil => simpa using hh
  | cons e calls ih =>
    obtain ⟨he, hrest⟩ := List.forall_mem_cons.1 hcalls
    have hone : TransmitsOnlyWhenClear (h ++ [e]) := hh.concat fun radio ok hc => by rw [hc] at he; cases he
    have hlast : lastClear (h ++ [e]) = lastClear h := by
      rw [lastClear_concat]
      cases e with
      | channelClear _ => cases he
      | transmit _ _ => cases he
      | receive _ => rfl
      | dispatch _ _ => rfl
      | setChannel _ => rfl
      | readRssi _ => rfl
    rw [List.append_cons, ← hlast]
    exact ih hrest hone

theorem ListenBeforeTalk.append_other (hs : ListenBeforeTalk s) (hsch : t.sch.state = s.sch.state)
    (hcalls : ∀ e ∈ calls, e.ofLbt = false) (hh : t.history = s.history ++ calls) : ListenBeforeTalk t := by
  obtain ⟨horder, hlast⟩ := lbt_append_other hcalls hs.1
  rw [ListenBeforeTalk, hh, hlast, hsch]
  exact ⟨horder, hs.2⟩

theorem ReceiveCalls.ofLbt (hr : ReceiveCalls calls) : ∀ e ∈ calls, e.ofLbt = false := by
  obtain ⟨received, dispatched, rfl, hr, hd⟩ := hr
  rcases hr with rfl | ⟨a, rfl⟩ <;> rcases hd with rfl | ⟨q, b, rfl⟩ <;> simp [Event.ofLbt]

/-- A state action transmits only in TRANSMIT_WINDOW, which it enters only on a clear answer (R252, R256). -/
theorem ListenBeforeTalk.of_action (hs : ListenBeforeTalk s) (e : ActionEffect s t) : ListenBeforeTalk t := by
  obtain ⟨horder, hwindow⟩ := hs
  obtain ⟨calls, hh, hcalls⟩ := e.calls
  rw [ListenBeforeTalk, hh]
  generalize s.sch.state = before at *
  generalize t.sch.state = after at *
  cases hcalls with
  | listen _ clear rssi hclear =>
    rw [List.append_cons]
    have hone : TransmitsOnlyWhenClear (s.history ++ [.channelClear clear]) := horder.concat nofun
    obtain ⟨htwo, hlast⟩ := lbt_append_other (calls := [.readRssi rssi]) (by simp [Event.ofLbt]) hone
    rw [hlast, lastClear_concat]
    exact ⟨htwo, hclear⟩
  | silent _ hafter =>
    rw [List.append_nil]
    exact ⟨horder, fun h => absurd h hafter⟩
  | keyed _ radio ok hafter => exact ⟨horder.concat fun _ _ _ => hwindow rfl, fun h => absurd h hafter⟩
  | waiting _ hafter =>
    rw [List.append_nil]
    exact ⟨horder, fun h => absurd h hafter⟩

/-- T3 changes no state of the scheduler and calls the radio at most to tune it (R247, R248). -/
theorem State.timeAccounting_calls (s : State) :
    s.dutyWindow.slotRotate.sch.state = s.sch.state ∧
      ∃ moved, s.dutyWindow.slotRotate.history = s.history ++ moved
        ∧ (moved = [] ∨ ∃ slot, moved = [.setChannel slot]) := by
  have hduty : s.dutyWindow.sch.state = s.sch.state ∧ s.dutyWindow.history = s.history := by
    rw [State.dutyWindow_eq]
    exact ⟨rfl, rfl⟩
  refine ⟨(congrArg (·.sch.state) (State.slotRotate_eq _)).trans hduty.1, ?_⟩
  rcases s.dutyWindow.slotRotate_calls with h | ⟨slot, h⟩
  · exact ⟨[], by rw [h, hduty.2, List.append_nil], .inl rfl⟩
  · exact ⟨[.setChannel slot], by rw [h, hduty.2], .inr ⟨slot, rfl⟩⟩

theorem ListenBeforeTalk.finishTick (hs : ListenBeforeTalk s) : ListenBeforeTalk s.finishTick := by
  obtain ⟨hstate, moved, hh, hmoved⟩ := s.timeAccounting_calls
  have hother : ∀ e ∈ moved, e.ofLbt = false := by
    rcases hmoved with rfl | ⟨slot, rfl⟩ <;> simp [Event.ofLbt]
  have haction := (hs.append_other hstate hother hh).of_action (State.stateAction_effect _)
  exact haction

theorem ListenBeforeTalk.of_outcome {p : Store → Nat → Prop} (hs : ListenBeforeTalk s) (hr : ReceiveCalls calls)
    (ho : TickOutcome p calls s t) : ListenBeforeTalk t := by
  have carry : ∀ {w}, TickPrefix p calls s w → ListenBeforeTalk w := fun hw =>
    hs.append_other (by rw [hw.sched.sch]) hr.ofLbt hw.history
  rcases ho with ht | ⟨w, hw, rfl⟩
  · exact carry ht
  · exact (carry hw).finishTick

end ListenBeforeTalk

/-! ## Oracle answers (R15) -/

section Asks

variable {s : State} {n : Nat}

theorem State.askReceive_of_draw {a : Option (List Byte)} {q : List (Option (List Byte))}
    (h : draw s.env.answers.receive Config.drawReceive s.env.draws = (a, q, n)) :
    s.askReceive =
      (a,
        { s with
          env := { s.env with answers := { s.env.answers with receive := q }, draws := n }
          history := s.history ++ [.receive a] }) := by
  simp only [State.askReceive, h, State.record]

theorem State.askDispatch_of_draw {a : Option (List Byte)} {q : List (Option (List Byte))}
    (h : draw s.env.answers.dispatch Config.drawDispatch s.env.draws = (a, q, n)) (payload : List Byte) :
    s.askDispatch payload =
      (a,
        { s with
          env := { s.env with answers := { s.env.answers with dispatch := q }, draws := n }
          history := s.history ++ [.dispatch payload a] }) := by
  simp only [State.askDispatch, h, State.record]

theorem State.askChannelClear_of_draw {a : Bool} {q : List Bool}
    (h : draw s.env.answers.channelClear Config.drawChannelClear s.env.draws = (a, q, n)) :
    s.askChannelClear =
      (a,
        { s with
          env := { s.env with answers := { s.env.answers with channelClear := q }, draws := n }
          history := s.history ++ [.channelClear a] }) := by
  simp only [State.askChannelClear, h, State.record]

theorem State.askRssi_of_draw {a : Byte} {q : List Byte}
    (h : draw s.env.answers.rssi Config.drawRssi s.env.draws = (a, q, n)) :
    s.askRssi =
      (a,
        { s with
          env := { s.env with answers := { s.env.answers with rssi := q }, draws := n }
          history := s.history ++ [.readRssi a] }) := by
  simp only [State.askRssi, h, State.record]

theorem State.askTransmit_of_draw {a : Bool} {q : List Bool}
    (h : draw s.env.answers.transmit Config.drawTransmit s.env.draws = (a, q, n)) (radio : List Byte) :
    s.askTransmit radio =
      (a,
        { s with
          env := { s.env with answers := { s.env.answers with transmit := q }, draws := n }
          history := s.history ++ [.transmit radio a] }) := by
  simp only [State.askTransmit, h, State.record]

end Asks

theorem ofNat_toNat_succ {w : Nat} (x : BitVec w) : BitVec.ofNat w (x.toNat + 1) = x + 1 := by
  rw [BitVec.ofNat_add, BitVec.ofNat_toNat, BitVec.setWidth_eq]
  rfl

/-! ## The receive step (R243, R244, R246) -/

section Receive

variable {s : State} {radio : List Byte} {d : Deframed} {a : Option (List Byte)}
  {q : List (Option (List Byte))} {n : Nat}

theorem frameNetid_eq_iff (radio : List Byte) (netid : Half) :
    frameNetid radio = netid ↔ (radio.getD 3 0).toNat + 256 * (radio.getD 4 0).toNat = netid.toNat := by
  have h3 := (radio.getD 3 0).isLt
  have h4 := (radio.getD 4 0).isLt
  rw [← BitVec.toNat_inj, frameNetid, BitVec.toNat_ofNat, Nat.mod_eq_of_lt (by omega)]

theorem State.receiveStep_of_none (h : s.askReceive.1 = none) : s.receiveStep = (none, s.askReceive.2) := by
  simp only [State.receiveStep, h]

theorem State.receiveStep_of_wrong_length (h : s.askReceive.1 = some radio) (hl : radio.length ≠ s.cfg.frameLen) :
    s.receiveStep = (none, (s.askReceive.2.setCond condRxFrame).setCond condRxDropped) := by
  simp only [State.receiveStep, h]
  exact if_pos hl

theorem State.receiveStep_of_other_network (h : s.askReceive.1 = some radio) (hl : radio.length = s.cfg.frameLen)
    (hn : frameNetid radio ≠ s.tun.netid) :
    s.receiveStep =
      (none, ((s.askReceive.2.setCond condRxFrame).writeBytes .rxb 0 radio).setCond condRxDropped) := by
  simp only [State.receiveStep, h]
  exact (if_neg (not_not.2 hl)).trans (if_pos (by rwa [State.writeBytes_tun]))

theorem State.receiveStep_of_own_network (h : s.askReceive.1 = some radio) (hl : radio.length = s.cfg.frameLen)
    (hn : frameNetid radio = s.tun.netid) :
    s.receiveStep = ((s.askReceive.2.setCond condRxFrame).writeBytes .rxb 0 radio).receiveFrame radio := by
  simp only [State.receiveStep, h]
  exact (if_neg (not_not.2 hl)).trans (if_neg (by rwa [State.writeBytes_tun, ne_eq, not_not]))

/-- A deframed packet stored, and counted if any bit was corrected (R244). -/
def State.countedPacket (d : Deframed) (s : State) : State :=
  { (s.writeBytes .blk 0 d.block).writeBytes .pay 0 d.payload with
    rx := ⟨d.type, d.seq, d.sender, d.netid, BitVec.ofNat 8 d.payload.length⟩
    corr := BitVec.ofNat 16 (min d.corrected 0xFFFF)
    cnt := if 0 < d.corrected then { s.cnt with corr := satInc s.cnt.corr } else s.cnt }

/-- What becomes of a packet of a type depends on the type only (R244, R246). -/
theorem State.receiveFrame_of_ok (hd : deframe s.cfg radio = .ok d) :
    s.receiveFrame radio =
      if d.type = 0 ∨ d.type = 3 then (some d.payload, s.countedPacket d)
      else if d.type = 2 then (none, (s.countedPacket d).remoteAt d.payload)
      else (none, (s.countedPacket d).setCond condRxDropped) := by
  have hcounted : (if 0 < d.corrected then
      { s.storeDeframed d with cnt := { (s.storeDeframed d).cnt with corr := satInc (s.storeDeframed d).cnt.corr } }
      else s.storeDeframed d) = s.countedPacket d := by
    unfold State.countedPacket
    split <;> simp [State.storeDeframed, sat16]
  simp only [State.receiveFrame, hd, State.acceptPacket, hcounted]
  rfl

theorem State.remoteAt_of_draw (h : draw s.env.answers.dispatch Config.drawDispatch s.env.draws = (a, q, n))
    (payload : List Byte) :
    s.remoteAt payload =
      { s with
        env := { s.env with answers := { s.env.answers with dispatch := q }, draws := n }
        history := s.history ++ [Event.dispatch payload a]
        tickCond := s.tickCond ||| 0x0020
        replyPending := a.elim s.replyPending fun r => some (r.take 255) } := by
  unfold State.remoteAt
  rw [State.askDispatch_of_draw h]
  cases a <;> rfl

end Receive

/-! ## Time accounting (R247, R248) -/

section TimeAccounting

variable {s : State}

theorem State.dutyWindow_of_le (h : s.sch.dcElapsed.toNat + 1 ≤ s.cfg.dcWindowTicks) :
    s.dutyWindow = { s with sch := { s.sch with dcElapsed := s.sch.dcElapsed + 1 } } := by
  rw [State.dutyWindow, if_neg h.not_gt, ofNat_toNat_succ]

theorem State.dutyWindow_of_lt (h : s.cfg.dcWindowTicks < s.sch.dcElapsed.toNat + 1) :
    s.dutyWindow = { s with sch := { s.sch with dcElapsed := 1, dcTx := 0 } } := if_pos h

theorem State.slotRotate_of_lt (h : s.sch.slotTmr.toNat + 1 < s.cfg.slotTicks) :
    s.slotRotate = { s with sch := { s.sch with slotTmr := s.sch.slotTmr + 1 } } := by
  rw [State.slotRotate, if_pos h, ofNat_toNat_succ]

/-- With one slot there is none to move to (R248). -/
theorem State.slotRotate_of_same (h : s.cfg.slotTicks ≤ s.sch.slotTmr.toNat + 1)
    (hs : (s.sch.slot.toNat + 1) % s.cfg.numSlots = s.sch.slot.toNat) :
    s.slotRotate = { s with sch := { s.sch with slotTmr := 0 } } := by
  rw [State.slotRotate, if_neg h.not_gt]
  exact if_pos hs

theorem State.slotRotate_of_new (h : s.cfg.slotTicks ≤ s.sch.slotTmr.toNat + 1) {new : Byte}
    (hnew : new.toNat = (s.sch.slot.toNat + 1) % s.cfg.numSlots) (hne : new.toNat ≠ s.sch.slot.toNat) :
    s.slotRotate =
      { s with
        sch := { s.sch with slotTmr := 0, slot := new }
        history := s.history ++ [Event.setChannel new]
        tickCond := s.tickCond ||| 0x0800 } := by
  rw [State.slotRotate, if_neg h.not_gt]
  dsimp only
  rw [← hnew, if_neg hne, BitVec.ofNat_toNat, BitVec.setWidth_eq]
  rfl

/-- Round robin stands still only where there is one slot (R248). -/
theorem next_slot_ne {slot n : Nat} (hslot : slot < n) (hn : n ≠ 1) : (slot + 1) % n ≠ slot := by
  rw [add_mod_wrap hslot (by omega)]
  split <;> omega

end TimeAccounting

/-! ## LISTEN (R251, R252) -/

section Listen

variable {s : State} {clear : Bool} {cq : List Bool} {rssi : Byte} {rq : List Byte} {n m : Nat}

theorem channelBusy_iff (lbt : Byte) (clear : Bool) (rssi : Byte) :
    channelBusy lbt clear rssi = true ↔ clear = false ∨ (lbt ≠ 0 ∧ lbt.toNat ≤ rssi.toNat) := by
  simp [channelBusy]

/-- The state after the two oracle calls of a LISTEN tick. -/
def State.heard (clear : Bool) (cq : List Bool) (rssi : Byte) (rq : List Byte) (m : Nat) (s : State) : State :=
  { s with
    env := { s.env with answers := { s.env.answers with channelClear := cq, rssi := rq }, draws := m }
    history := s.history ++ [.channelClear clear, .readRssi rssi] }

variable (hc : draw s.env.answers.channelClear Config.drawChannelClear s.env.draws = (clear, cq, n))
  (hr : draw s.env.answers.rssi Config.drawRssi n = (rssi, rq, m))

include hc hr

/-- A LISTEN tick makes both oracle calls, whatever they answer (R251). -/
theorem State.listen_asks :
    s.askChannelClear.1 = clear ∧ s.askChannelClear.2.askRssi = (rssi, s.heard clear cq rssi rq m) := by
  rw [State.askChannelClear_of_draw hc, State.askRssi_of_draw hr, List.append_assoc]
  exact ⟨rfl, rfl⟩

theorem State.listen_of_busy (hb : channelBusy s.tun.lbt clear rssi = true) :
    s.listen =
      { s.heard clear cq rssi rq m with
        tickCond := s.tickCond ||| 0x0040
        sch :=
          { s.sch with
            lastRssi := rssi
            clearCnt := 0
            retry := satInc8 s.sch.retry
            backoff :=
              BitVec.ofNat 16
                (backoffFn s.cfg s.tun.netid.toNat s.sch.slot.toNat (satInc8 s.sch.retry).toNat)
            state := .backoff } } := by
  obtain ⟨h1, h2⟩ := State.listen_asks hc hr
  simp only [State.listen, h1, h2]
  exact if_pos hb

theorem State.listen_of_clear (hb : channelBusy s.tun.lbt clear rssi = false) :
    s.listen =
      { s.heard clear cq rssi rq m with
        sch :=
          { s.sch with
            lastRssi := rssi
            clearCnt := satInc8 s.sch.clearCnt
            state :=
              if s.cfg.minClearTicks ≤ (satInc8 s.sch.clearCnt).toNat then .transmitWindow else s.sch.state } } := by
  obtain ⟨h1, h2⟩ := State.listen_asks hc hr
  simp only [State.listen, h1, h2]
  refine (if_neg (by simp [State.heard, hb])).trans ?_
  by_cases hmin : s.cfg.minClearTicks ≤ (satInc8 s.sch.clearCnt).toNat
  · rw [if_pos hmin]
    exact if_pos hmin
  · rw [if_neg hmin]
    exact if_neg hmin

end Listen

theorem satInc8_toNat (c : Byte) : (satInc8 c).toNat = min (c.toNat + 1) 255 := by
  rw [satInc8, BitVec.toNat_ofNat]
  omega

/-! ## TRANSMIT_WINDOW (R253 to R257) -/

section TransmitWindow

variable {s u : State} {k : Candidate}

theorem State.chooseCandidate_of_reply {q : List Byte} (h : s.replyPending = some q) :
    s.chooseCandidate = (some ⟨3, q, .reply⟩, s) := by
  simp only [State.chooseCandidate, h]
  rfl

theorem State.chooseCandidate_of_heartbeat (hr : s.replyPending = none) (hh : s.hbReq = true) :
    s.chooseCandidate = (some ⟨1, heartbeatPayload s, .heartbeat⟩, s) := by
  simp only [State.chooseCandidate, hr, hh]
  rfl

theorem State.chooseCandidate_of_nothing (hr : s.replyPending = none) (hh : s.hbReq = false)
    (ht : s.txPending = none) : s.chooseCandidate = (none, s) := by
  simp [State.chooseCandidate, hr, hh, ht]

/-- The pending packet is the last choice (R253). -/
theorem State.chooseCandidate_of_pending (hr : s.replyPending = none) (hh : s.hbReq = false) {p : Packet}
    (ht : s.txPending = some p) : s.chooseCandidate = s.dataCandidate p := by
  simp [State.chooseCandidate, hr, hh, ht]

theorem toNat_pos_iff {w : Nat} (x : BitVec w) : 0 < x.toNat ↔ x ≠ 0 := by
  rw [Nat.pos_iff_ne_zero, ne_eq, ne_eq, ← BitVec.toNat_inj]
  rfl

theorem State.dataCandidate_of_suppressed {p : Packet}
    (h : s.tun.peerNoRoom = true ∧ p.type = 0 ∧ s.bridge.credit ≠ 0) :
    s.dataCandidate p =
      (none,
        { s with
          bridge := { s.bridge with credit := s.bridge.credit - 1 }
          tickCond := s.tickCond ||| 0x0400 }) := by
  obtain ⟨hroom, htype, hcredit⟩ := h
  have hpos := (toNat_pos_iff _).2 hcredit
  have hsub : BitVec.ofNat 8 (s.bridge.credit.toNat - 1) = s.bridge.credit - 1 := by bv_omega
  rw [State.dataCandidate, if_pos ⟨hroom, htype, hpos⟩, hsub]
  rfl

theorem State.dataCandidate_of_sent {p : Packet}
    (h : ¬ (s.tun.peerNoRoom = true ∧ p.type = 0 ∧ s.bridge.credit ≠ 0)) :
    s.dataCandidate p = (some ⟨p.type, p.payload, .tx⟩, s) := by
  rw [← toNat_pos_iff] at h
  exact if_neg h

theorem State.noBudget_iff (s : State) :
    s.noBudget = true ↔
      s.tun.duty ≠ 0 ∧ s.tun.duty.toNat * s.sch.dcElapsed.toNat < (s.sch.dcTx.toNat + 1) * 100 := by
  rw [State.noBudget, Bool.and_eq_true, bne_iff_ne, decide_eq_true_iff]
  rfl

/-- A TRANSMIT_WINDOW tick, by its candidate (R253, R255). -/
theorem State.transmitWindow_of_none
    (h : State.chooseCandidate { s with sch := { s.sch with clearCnt := 0 } } = (none, u)) :
    s.transmitWindow = { u with sch := { u.sch with state := .listen } } := by
  simp only [State.transmitWindow, h]
  rfl

theorem State.transmitWindow_of_exhausted
    (h : State.chooseCandidate { s with sch := { s.sch with clearCnt := 0 } } = (some k, u))
    (hb : u.noBudget = true) :
    s.transmitWindow = { u with tickCond := u.tickCond ||| 0x0080 }.enterBackoff := by
  simp only [State.transmitWindow, h, hb]
  rfl

theorem State.transmitWindow_of_budget
    (h : State.chooseCandidate { s with sch := { s.sch with clearCnt := 0 } } = (some k, u))
    (hb : u.noBudget = false) : s.transmitWindow = u.keyTransmitter k := by
  simp only [State.transmitWindow, h, hb]
  rfl

/-- A transmission charges one tick, advances TXSEQ modulo 256 and empties the slot it came from (R256). -/
theorem State.transmitted_eq (s : State) (src : Source) :
    s.transmitted src =
      { s with
        tickCond := s.tickCond ||| 0x0100
        sch := { s.sch with dcTx := s.sch.dcTx + 1, txSeq := s.sch.txSeq + 1, retry := 0 }
        replyPending := if src = .reply then none else s.replyPending
        hbReq := if src = .heartbeat then false else s.hbReq
        txPending := if src = .tx then none else s.txPending } := by
  have hcharge : BitVec.ofNat 16 (s.sch.dcTx.toNat + Config.txCost) = s.sch.dcTx + 1 := ofNat_toNat_succ _
  have hseq : BitVec.ofNat 8 ((s.sch.txSeq.toNat + 1) % 256) = s.sch.txSeq + 1 := by bv_omega
  rw [State.transmitted, hcharge, hseq]
  cases src <;> rfl

/-- The state after a frame is stored and the radio has been asked to send it (R256). -/
def State.sentFrame (frame : List Byte × List Byte) (ok : Bool) (q : List Bool) (n : Nat) (s : State) : State :=
  { s with
    mem := (s.storeFrame frame.1 frame.2).mem
    env := { s.env with answers := { s.env.answers with transmit := q }, draws := n }
    history := s.history ++ [.transmit frame.1 ok] }

/-- The transmitter is keyed with the frame of the candidate (R256, R257). -/
theorem State.keyTransmitter_of_draw {ok : Bool} {q : List Bool} {n : Nat}
    (h : draw s.env.answers.transmit Config.drawTransmit s.env.draws = (ok, q, n)) (k : Candidate) :
    s.keyTransmitter k =
      (if ok then (s.sentFrame (s.frameOf k.type k.payload) ok q n).transmitted k.source
        else (s.sentFrame (s.frameOf k.type k.payload) ok q n).setCond condTxFailed).setSch .listen := by
  have hstore := State.storeFrame_eq s (s.frameOf k.type k.payload).1 (s.frameOf k.type k.payload).2
  have hask := State.askTransmit_of_draw
    (s := s.storeFrame (s.frameOf k.type k.payload).1 (s.frameOf k.type k.payload).2) (a := ok) (q := q) (n := n)
    (by rw [hstore]; exact h) (s.frameOf k.type k.payload).1
  simp only [State.keyTransmitter, hask]
  rw [hstore]
  rfl

end TransmitWindow

/-! ## The record of a bulk command's progress

No part of a tick reads it: HeartbeatPayload sees the list of R20 only (R260), and the end of a tick clears it. -/

/-- The same state with another record of the bulk command in progress. -/
def State.withBulk (x : Option Bulk) (s : State) : State := { s with bulk := x }

section BulkRecord

variable {s : State} {x : Option Bulk}

theorem State.writeBytes_withBulk (s : State) (x : Option Bulk) (st : Store) (a : Nat) (bs : List Byte) :
    (s.withBulk x).writeBytes st a bs = (s.writeBytes st a bs).withBulk x := by
  induction bs generalizing s a with
  | nil => rfl
  | cons b bs ih => exact ih (s.wr st a b) (a + 1)

theorem State.storeFrame_withBulk (s : State) (x : Option Bulk) (radio block : List Byte) :
    (s.withBulk x).storeFrame radio block = (s.storeFrame radio block).withBulk x := by
  rw [State.storeFrame, State.writeBytes_withBulk, State.writeBytes_withBulk]
  rfl

theorem State.dutyWindow_withBulk (s : State) (x : Option Bulk) :
    (s.withBulk x).dutyWindow = s.dutyWindow.withBulk x := by
  rcases Nat.lt_or_ge s.cfg.dcWindowTicks (s.sch.dcElapsed.toNat + 1) with h | h
  · rw [State.dutyWindow_of_lt h, State.dutyWindow_of_lt (s := s.withBulk x) h]
    rfl
  · rw [State.dutyWindow_of_le h, State.dutyWindow_of_le (s := s.withBulk x) h]
    rfl

theorem State.slotRotate_withBulk (s : State) (x : Option Bulk) :
    (s.withBulk x).slotRotate = s.slotRotate.withBulk x := by
  unfold State.slotRotate
  change (if s.sch.slotTmr.toNat + 1 < s.cfg.slotTicks then _ else _) = _
  split
  · rfl
  · change (if (s.sch.slot.toNat + 1) % s.cfg.numSlots = s.sch.slot.toNat then _ else _)
      = State.withBulk x (if (s.sch.slot.toNat + 1) % s.cfg.numSlots = s.sch.slot.toNat then _ else _)
    split <;> rfl

theorem State.listen_withBulk (s : State) (x : Option Bulk) : (s.withBulk x).listen = s.listen.withBulk x := by
  rcases hc : draw s.env.answers.channelClear Config.drawChannelClear s.env.draws with ⟨clear, cq, n⟩
  rcases hr : draw s.env.answers.rssi Config.drawRssi n with ⟨rssi, rq, m⟩
  cases hb : channelBusy s.tun.lbt clear rssi with
  | true =>
    rw [State.listen_of_busy hc hr hb, State.listen_of_busy (s := s.withBulk x) hc hr hb]
    rfl
  | false =>
    rw [State.listen_of_clear hc hr hb, State.listen_of_clear (s := s.withBulk x) hc hr hb]
    rfl

theorem State.chooseCandidate_withBulk (s : State) (x : Option Bulk) :
    (s.withBulk x).chooseCandidate = (s.chooseCandidate.1, s.chooseCandidate.2.withBulk x) := by
  cases hr : s.replyPending with
  | some q => rw [State.chooseCandidate_of_reply hr, State.chooseCandidate_of_reply (s := s.withBulk x) hr]
  | none =>
    cases hh : s.hbReq with
    | true =>
      rw [State.chooseCandidate_of_heartbeat hr hh, State.chooseCandidate_of_heartbeat (s := s.withBulk x) hr hh]
      rfl
    | false =>
      cases ht : s.txPending with
      | none =>
        rw [State.chooseCandidate_of_nothing hr hh ht, State.chooseCandidate_of_nothing (s := s.withBulk x) hr hh ht]
      | some p =>
        rw [State.chooseCandidate_of_pending hr hh ht, State.chooseCandidate_of_pending (s := s.withBulk x) hr hh ht]
        by_cases hsup : s.tun.peerNoRoom = true ∧ p.type = 0 ∧ s.bridge.credit ≠ 0
        · rw [State.dataCandidate_of_suppressed hsup, State.dataCandidate_of_suppressed (s := s.withBulk x) hsup]
          rfl
        · rw [State.dataCandidate_of_sent hsup, State.dataCandidate_of_sent (s := s.withBulk x) hsup]

theorem State.keyTransmitter_withBulk (s : State) (x : Option Bulk) (k : Candidate) :
    (s.withBulk x).keyTransmitter k = (s.keyTransmitter k).withBulk x := by
  rcases hd : draw s.env.answers.transmit Config.drawTransmit s.env.draws with ⟨ok, q, n⟩
  have hsent : ∀ frame, (s.withBulk x).sentFrame frame ok q n = (s.sentFrame frame ok q n).withBulk x := fun frame => by
    rw [State.sentFrame, State.storeFrame_withBulk]
    rfl
  rw [State.keyTransmitter_of_draw hd, State.keyTransmitter_of_draw (s := s.withBulk x) hd, hsent,
    State.transmitted_eq, State.transmitted_eq]
  cases ok <;> rfl

theorem State.transmitWindow_withBulk (s : State) (x : Option Bulk) :
    (s.withBulk x).transmitWindow = s.transmitWindow.withBulk x := by
  have hx := State.chooseCandidate_withBulk { s with sch := { s.sch with clearCnt := 0 } } x
  rcases hc : State.chooseCandidate { s with sch := { s.sch with clearCnt := 0 } } with ⟨cand, u⟩
  rw [hc] at hx
  cases cand with
  | none =>
    rw [State.transmitWindow_of_none hc, State.transmitWindow_of_none (s := s.withBulk x) hx]
    rfl
  | some k =>
    cases hb : u.noBudget with
    | true =>
      rw [State.transmitWindow_of_exhausted hc hb, State.transmitWindow_of_exhausted (s := s.withBulk x) hx hb]
      rfl
    | false =>
      rw [State.transmitWindow_of_budget hc hb, State.transmitWindow_of_budget (s := s.withBulk x) hx hb,
        State.keyTransmitter_withBulk]

theorem State.backoffTick_withBulk (s : State) (x : Option Bulk) :
    (s.withBulk x).backoffTick = s.backoffTick.withBulk x := by
  rcases Nat.lt_or_ge 1 s.sch.backoff.toNat with h | h
  · rw [State.backoffTick_of_one_lt h, State.backoffTick_of_one_lt (s := s.withBulk x) h]
    rfl
  · rw [State.backoffTick_of_le_one h, State.backoffTick_of_le_one (s := s.withBulk x) h]
    rfl

theorem State.stateAction_withBulk (s : State) (x : Option Bulk) :
    (s.withBulk x).stateAction = s.stateAction.withBulk x := by
  have hs : (s.withBulk x).sch = s.sch := rfl
  rw [State.stateAction, State.stateAction, hs]
  cases s.sch.state with
  | listen => exact s.listen_withBulk x
  | transmitWindow => exact s.transmitWindow_withBulk x
  | backoff => exact s.backoffTick_withBulk x

/-- The end of a tick does not depend on the record it clears. -/
theorem State.finishTick_withBulk (s : State) (x : Option Bulk) : (s.withBulk x).finishTick = s.finishTick := by
  rw [State.finishTick, State.timeAndState, State.dutyWindow_withBulk, State.slotRotate_withBulk,
    State.stateAction_withBulk]
  rfl

theorem State.receiveFrame_withBulk (s : State) (x : Option Bulk) (radio : List Byte) :
    (s.withBulk x).receiveFrame radio = ((s.receiveFrame radio).1, (s.receiveFrame radio).2.withBulk x) := by
  have hcfg : (s.withBulk x).cfg = s.cfg := rfl
  cases hd : deframe s.cfg radio with
  | badLength =>
    simp only [State.receiveFrame, hcfg, hd]
    rfl
  | uncorrectable =>
    simp only [State.receiveFrame, hcfg, hd]
    rfl
  | ok d =>
    have hcounted : (s.withBulk x).countedPacket d = (s.countedPacket d).withBulk x := by
      rw [State.countedPacket, State.writeBytes_withBulk, State.writeBytes_withBulk]
      rfl
    have hremote : ∀ (t : State) (p : List Byte), (t.withBulk x).remoteAt p = (t.remoteAt p).withBulk x := fun t p => by
      rcases h : draw t.env.answers.dispatch Config.drawDispatch t.env.draws with ⟨a, q, n⟩
      rw [State.remoteAt_of_draw h, State.remoteAt_of_draw (s := t.withBulk x) h]
      rfl
    rw [State.receiveFrame_of_ok hd, State.receiveFrame_of_ok (s := s.withBulk x) hd, hcounted, hremote]
    split
    · rfl
    · split <;> rfl

theorem State.receiveStep_withBulk (s : State) (x : Option Bulk) :
    (s.withBulk x).receiveStep = (s.receiveStep.1, s.receiveStep.2.withBulk x) := by
  have hask : (s.withBulk x).askReceive.2 = s.askReceive.2.withBulk x := rfl
  have hcond : ∀ t : State, (t.withBulk x).setCond condRxFrame = (t.setCond condRxFrame).withBulk x := fun _ => rfl
  cases ha : s.askReceive.1 with
  | none => rw [State.receiveStep_of_none ha, State.receiveStep_of_none (s := s.withBulk x) ha, hask]
  | some radio =>
    by_cases hl : radio.length = s.cfg.frameLen
    · by_cases hn : frameNetid radio = s.tun.netid
      · rw [State.receiveStep_of_own_network ha hl hn, State.receiveStep_of_own_network (s := s.withBulk x) ha hl hn,
          hask, hcond, State.writeBytes_withBulk, State.receiveFrame_withBulk]
      · rw [State.receiveStep_of_other_network ha hl hn,
          State.receiveStep_of_other_network (s := s.withBulk x) ha hl hn, hask, hcond, State.writeBytes_withBulk]
        rfl
    · rw [State.receiveStep_of_wrong_length ha hl, State.receiveStep_of_wrong_length (s := s.withBulk x) ha hl, hask]
      rfl

theorem State.endPush_withBulk (s : State) (x : Option Bulk) (full : Bool) (count : Nat) :
    (s.withBulk x).endPush true full count = s.endPush true full count := by
  have h := State.finishTick_withBulk ((s.setCond condRxDelivered).setCondIf full condRxOverflow) x
  cases full <;> exact h

/-- One micro-step of a delivery writes the record anew, or ends the tick. -/
theorem State.pushStep_withBulk (s : State) (x : Option Bulk) (bs : List Byte) (count : Nat) :
    (s.withBulk x).pushStep true bs count = s.pushStep true bs count := by
  cases bs with
  | nil => exact s.endPush_withBulk x false count
  | cons b more =>
    rcases s.tryPush_cases .stx b with ⟨hf, e⟩ | ⟨hf, e⟩
    · have ex : (s.withBulk x).tryPush .stx b = none := by rw [State.tryPush]; exact if_pos hf
      simp only [State.pushStep, e, ex]
      exact (s.countOverflow .stx).endPush_withBulk x true count
    · have ex : (s.withBulk x).tryPush .stx b = some ((s.ringPut .stx b).withBulk x) := by
        rw [State.tryPush]
        exact if_neg (Bool.eq_false_iff.1 hf)
      simp only [State.pushStep, e, ex]
      split
      · exact (s.ringPut .stx b).endPush_withBulk x false (count + 1)
      · rfl

end BulkRecord

/-! ## The drain loop run to its end (R301) -/

section DrainLoop

variable {s : State} {inTick : Bool}

theorem State.drainOne_eq (s : State) :
    s.drainOne =
      { s with
        mem := s.drainOne.mem
        srx := ⟨s.srx.insert, (s.srx.remove + 1) % s.cfg.rxCap⟩
        bridge := ⟨s.bridge.credit, 0, s.bridge.buildLen + 1⟩ } := rfl

theorem State.drainOne_cursorsOk (h : cursorsOk (s.cap .srx) (s.cursors .srx) = true) :
    cursorsOk (s.drainOne.cap .srx) (s.drainOne.cursors .srx) = true := State.ringDrop_cursorsOk h

/-- The state after `n` bytes have gone from SRX to the build buffer. -/
def State.drained (n : Nat) (s : State) : State := State.drainOne^[n] s

theorem State.drained_succ (s : State) (n : Nat) : s.drained (n + 1) = (s.drained n).drainOne :=
  Function.iterate_succ_apply' ..

theorem State.drained_keeps (s : State) (n : Nat) : (s.drained n).cfg = s.cfg ∧ (s.drained n).fg = s.fg := by
  induction n with
  | zero => exact ⟨rfl, rfl⟩
  | succ n ih =>
    rw [State.drained_succ]
    exact ih

theorem State.drained_withBulk (s : State) (x : Option Bulk) (n : Nat) :
    (s.withBulk x).drained n = (s.drained n).withBulk x := by
  induction n with
  | zero => rfl
  | succ n ih =>
    rw [State.drained_succ, State.drained_succ, ih]
    rfl

/-- A drain changes the memory, the remove cursor of SRX, the packet's length and, if a byte moved, its gap timer. -/
theorem State.drained_eq (h : s.srx.remove < s.cfg.rxCap) (n : Nat) :
    s.drained n =
      { s with
        mem := (s.drained n).mem
        srx := ⟨s.srx.insert, (s.srx.remove + n) % s.cfg.rxCap⟩
        bridge := ⟨s.bridge.credit, if n = 0 then s.bridge.gapTmr else 0, s.bridge.buildLen + n⟩ } := by
  induction n with
  | zero => simp [State.drained, Nat.mod_eq_of_lt h]
  | succ n ih =>
    rw [State.drained_succ, State.drainOne_eq, ih]
    simp only [Nat.mod_add_mod, Nat.add_assoc, Nat.succ_ne_zero, if_false]

/-- The bytes moved stand at the end of the build buffer, and no other byte has changed. -/
theorem State.rd_drained (h : s.srx.remove < s.cfg.rxCap) (n : Nat) (st : Store) (a : Nat) :
    (s.drained n).rd st a =
      if st = .build ∧ s.bridge.buildLen ≤ a ∧ a < s.bridge.buildLen + n then s.ringPeek .srx (a - s.bridge.buildLen)
      else s.rd st a := by
  induction n generalizing st a with
  | zero => exact (if_neg (by omega)).symm
  | succ n ih =>
    have hlen : (s.drained n).bridge.buildLen = s.bridge.buildLen + n := by rw [State.drained_eq h]
    have hsrx : (s.drained n).srx.remove = (s.srx.remove + n) % s.cfg.rxCap := by rw [State.drained_eq h]
    have hbyte : ∀ a', (s.drained n).rd .srx a' = s.rd .srx a' := fun a' => (ih .srx a').trans (if_neg (by simp))
    rw [State.drained_succ, State.rd_drainOne, hlen, hsrx, hbyte, ih]
    by_cases hst : st = .build
    · by_cases ha : a = s.bridge.buildLen + n
      · subst ha
        rw [if_pos ⟨hst, rfl⟩, if_pos ⟨hst, by omega, by omega⟩, Nat.add_sub_cancel_left]
        rfl
      · rw [if_neg (fun hc => ha hc.2)]
        exact if_congr (and_congr_right fun _ => by omega) rfl rfl
    · rw [if_neg (fun hc => hst hc.1), if_neg (fun hc => hst hc.1), if_neg (fun hc => hst hc.1)]

theorem State.ringContents_take {r : Ring} {n : Nat} (hn : n ≤ s.ringUsed r) :
    (s.ringContents r).take n = (List.range n).map (s.ringPeek r) := by
  rw [State.ringContents, ← List.map_take, List.take_range, min_eq_left hn]

/-- The packet is what it was, then the oldest bytes of SRX, in order (R301). -/
theorem State.drained_packet (h : s.srx.remove < s.cfg.rxCap) {n : Nat} (hn : n ≤ s.ringUsed .srx) :
    (s.drained n).readBytes .build (s.bridge.buildLen + n) =
      s.readBytes .build s.bridge.buildLen ++ (s.ringContents .srx).take n := by
  rw [State.ringContents_take hn, State.readBytes, List.range_add, List.map_append, List.map_map]
  congr 1
  · refine List.map_congr_left fun a ha => ?_
    have ha := List.mem_range.1 ha
    rw [State.rd_drained h, if_neg (by omega)]
  · refine List.map_congr_left fun j hj => ?_
    have hj := List.mem_range.1 hj
    rw [Function.comp, State.rd_drained h, if_pos ⟨rfl, by omega, by omega⟩, Nat.add_sub_cancel_left]

theorem State.drainOne_used (h : cursorsOk (s.cap .srx) (s.cursors .srx) = true) (he : s.ringEmpty .srx = false) :
    s.drainOne.ringUsed .srx + 1 = s.ringUsed .srx := State.ringDrop_used h he

/-- The drain loop moves bytes until the packet is full or SRX is empty, then ends; with legal cursors their number is
known (R301). -/
theorem State.runBulk_drainStep (s : State) (inTick : Bool) {fuel : Nat}
    (hfuel : s.tun.maxpay.toNat - s.bridge.buildLen ≤ fuel) :
    ∃ n x popped fuel', fuel ≤ fuel' + n ∧ n ≤ s.tun.maxpay.toNat - s.bridge.buildLen
      ∧ (cursorsOk (s.cap .srx) (s.cursors .srx) = true →
        n = min (s.tun.maxpay.toNat - s.bridge.buildLen) (s.ringUsed .srx))
      ∧ State.runBulk fuel (s.drainStep inTick) =
          State.runBulk fuel' (((s.drained n).withBulk x).endDrain inTick popped) := by
  generalize hk : s.tun.maxpay.toNat - s.bridge.buildLen = k at hfuel ⊢
  induction k generalizing s fuel with
  | zero =>
    refine ⟨0, s.bulk, false, fuel, le_rfl, le_rfl, fun _ => (Nat.zero_min _).symm, ?_⟩
    rw [State.drainStep_of_full (Nat.le_of_sub_eq_zero hk)]
    rfl
  | succ k ih =>
    have hroom : ¬ s.tun.maxpay.toNat ≤ s.bridge.buildLen := by omega
    cases he : s.ringEmpty .srx with
    | true =>
      refine ⟨0, s.bulk, true, fuel, le_rfl, Nat.zero_le _, fun h => ?_, ?_⟩
      · rw [(State.ringEmpty_iff h).1 he, Nat.min_zero]
      · rw [State.drainStep_of_empty hroom he]
        rfl
    | false =>
      have hk' : s.drainOne.tun.maxpay.toNat - s.drainOne.bridge.buildLen = k := by
        change s.tun.maxpay.toNat - (s.bridge.buildLen + 1) = k
        omega
      have hcount : ∀ {m}, m = min k (s.drainOne.ringUsed .srx) → cursorsOk (s.cap .srx) (s.cursors .srx) = true →
          m + 1 = min (k + 1) (s.ringUsed .srx) := fun hm h => by
        rw [← State.drainOne_used h he, hm, Nat.add_min_add_right]
      rw [State.drainStep_of_not_empty hroom he]
      split
      · refine ⟨1, s.bulk, true, fuel, Nat.le_succ _, Nat.le_add_left .., hcount ?_, rfl⟩
        have hzero : k = 0 := by omega
        rw [hzero, Nat.zero_min]
      · obtain ⟨fuel, rfl⟩ := Nat.exists_eq_add_of_le' ((Nat.le_add_left 1 k).trans hfuel)
        obtain ⟨n, x, popped, fuel', hle, hn, hmin, hrun⟩ :=
          ih (s.drainOne.suspend (.drain inTick)) hk' (Nat.le_of_succ_le_succ hfuel)
        refine ⟨n + 1, x, popped, fuel', by omega, by omega, fun h => hcount (hmin (State.drainOne_cursorsOk h)) h, ?_⟩
        rw [State.runBulk_suspend]
        refine hrun.trans ?_
        have hdrain : (s.drainOne.suspend (.drain inTick)).drained n = (s.drained (n + 1)).withBulk _ :=
          s.drainOne.drained_withBulk (some (.drain inTick)) n
        rw [hdrain]
        rfl

end DrainLoop

/-! ## The rest of a tick run to its end (R241, R245) -/

section RestOfTick

variable {s : State} {fuel : Nat}

/-- A bulk command that is over stays over, however many more micro-steps are allowed. -/
theorem State.runBulk_of_le {n m : Nat} (h : (State.runBulk n s).bulk = none) (hle : n ≤ m) :
    State.runBulk m s = State.runBulk n s := by
  induction n generalizing s m with
  | zero => exact State.runBulk_of_done h m
  | succ n ih =>
    obtain ⟨m, rfl⟩ := Nat.exists_eq_add_of_le' ((Nat.le_add_left 1 n).trans hle)
    rw [State.runBulk] at h ⊢
    rw [State.runBulk]
    split at h
    · rename_i hb
      rw [if_pos hb, if_pos hb]
      exact ih h (Nat.le_of_succ_le_succ hle)
    · rename_i hb
      rw [if_neg hb, if_neg hb]

/-- A delivery ends its tick, in at most as many micro-steps as it has bytes (R245). -/
theorem State.runBulk_delivery (s : State) (bs : List Byte) (count : Nat) :
    ∃ w : State, w.fg = s.fg ∧ State.runBulk bs.length (s.pushStep true bs count) = w.finishTick := by
  have hend : ∀ (t : State) (full : Bool) (n fuel : Nat),
      ∃ w : State, w.fg = t.fg ∧ State.runBulk fuel (t.endPush true full n) = w.finishTick := fun t full n fuel =>
    ⟨(t.setCond condRxDelivered).setCondIf full condRxOverflow, State.setCondIf_fg .., State.runBulk_endPush ..⟩
  induction bs generalizing s count with
  | nil => exact hend s _ _ _
  | cons b more ih =>
    rcases s.tryPush_cases .stx b with ⟨-, e⟩ | ⟨-, e⟩ <;> simp only [State.pushStep, e]
    · exact hend (s.countOverflow .stx) _ _ _
    · split
      · exact hend (s.ringPut .stx b) _ _ _
      · rw [List.length_cons, State.runBulk_suspend]
        exact ih ((s.ringPut .stx b).suspend (.push true more (count + 1))) (count + 1)

theorem State.runBulk_delivery_of_le {bs : List Byte} (hle : bs.length ≤ fuel) (count : Nat) :
    State.runBulk fuel (s.pushStep true bs count) = State.runBulk bs.length (s.pushStep true bs count) := by
  obtain ⟨w, -, hw⟩ := s.runBulk_delivery bs count
  exact State.runBulk_of_le (hw ▸ w.finishTick_done.2) hle

/-- What the rest of a tick comes to once the receive step has run: the end of the tick, after the delivery if there is
one (R241). -/
def State.afterReceive : Option (List Byte) × State → State
  | (none, t) => t.finishTick
  | (some payload, t) => State.runBulk payload.length (t.pushStep true payload 0)

/-- Whether the first push of a delivery is left to the next micro-step or not, the tick comes to the same. -/
theorem State.runBulk_tickReceive (hfuel : s.cfg.fecK < fuel) (popped : Bool) :
    State.runBulk fuel (s.tickReceive popped) = State.afterReceive s.receiveStep := by
  have hpay := @State.receiveStep_payload s
  unfold State.tickReceive
  generalize s.receiveStep = rs at *
  obtain ⟨delivery, t⟩ := rs
  cases delivery with
  | none => exact State.runBulk_of_done t.finishTick_done.2 fuel
  | some payload =>
    have hlen : payload.length < fuel := (hpay rfl).trans_lt hfuel
    dsimp only
    split
    · obtain ⟨fuel, rfl⟩ := Nat.exists_eq_add_of_le' (Nat.one_le_of_lt hlen)
      have hstep : Bulk.step (.push true payload 0) (t.suspend (.push true payload 0)) = t.pushStep true payload 0 :=
        t.pushStep_withBulk (some (.push true payload 0)) payload 0
      rw [State.runBulk_suspend, hstep, State.runBulk_delivery_of_le (Nat.le_of_lt_succ hlen)]
      rfl
    · exact State.runBulk_delivery_of_le hlen.le 0

theorem State.afterReceive_withBulk (s : State) (x : Option Bulk) :
    State.afterReceive (s.withBulk x).receiveStep = State.afterReceive s.receiveStep := by
  rw [State.receiveStep_withBulk]
  rcases s.receiveStep with ⟨_ | payload, t⟩
  · exact t.finishTick_withBulk x
  · exact congrArg (State.runBulk payload.length) (t.pushStep_withBulk x payload 0)

/-- The tick completes with ERR 0 and RESULT as it was (R241, R333). -/
theorem State.afterReceive_done (s : State) :
    (State.afterReceive s.receiveStep).bulk = none ∧ (State.afterReceive s.receiveStep).fg = ⟨s.fg.result, 0⟩ := by
  have hresult := s.receiveStep_sched.result
  generalize s.receiveStep = rs at *
  obtain ⟨_ | payload, t⟩ := rs
  · exact ⟨t.finishTick_done.2, t.finishTick_done.1.trans (congrArg (PortRegs.mk · 0) hresult)⟩
  · obtain ⟨w, hfg, hw⟩ := t.runBulk_delivery payload 0
    rw [State.afterReceive, hw, w.finishTick_done.1, hfg]
    exact ⟨w.finishTick_done.2, congrArg (PortRegs.mk · 0) hresult⟩

end RestOfTick

/-! ## The handover (R302) -/

/-- The packet is ready and its place is free (R302). -/
def HandoverDue (s : State) : Prop :=
  0 < s.bridge.buildLen ∧ (s.tun.maxpay.toNat ≤ s.bridge.buildLen ∨ s.tun.gapto.toNat ≤ s.bridge.gapTmr.toNat)
    ∧ s.txPending = none

/-- The state in which the receive step of a tick runs: after the handover, if one is due. -/
def State.handedOver (s : State) : State :=
  (if s.handoverReady then s.handover else s).setCondIf s.handoverReady condHandover

section Handover

variable {s : State}

theorem State.handoverReady_iff (s : State) : s.handoverReady = true ↔ HandoverDue s := by
  simp [State.handoverReady, HandoverDue, and_assoc]

theorem State.handedOver_of_due (h : HandoverDue s) :
    s.handedOver =
      { s with
        tickCond := s.tickCond ||| 0x1000
        txPending := some ⟨0, s.readBytes .build s.bridge.buildLen⟩
        bridge := ⟨s.bridge.credit, 0, 0⟩ } := by
  rw [State.handedOver, s.handoverReady_iff.2 h]
  rfl

theorem State.handedOver_of_not_due (h : ¬ HandoverDue s) : s.handedOver = s := by
  rw [State.handedOver, Bool.eq_false_iff.2 (mt s.handoverReady_iff.1 h)]
  rfl

theorem State.handedOver_withBulk (s : State) (x : Option Bulk) :
    (s.withBulk x).handedOver = s.handedOver.withBulk x := by
  by_cases h : HandoverDue s
  · rw [State.handedOver_of_due h, State.handedOver_of_due (s := s.withBulk x) h]
    rfl
  · rw [State.handedOver_of_not_due h, State.handedOver_of_not_due (s := s.withBulk x) h]

/-- A handover changes TICKCOND, the pending slot and the bridge only (R302). -/
theorem State.handedOver_eq (s : State) :
    s.handedOver =
      { s with
        tickCond := s.handedOver.tickCond, txPending := s.handedOver.txPending, bridge := s.handedOver.bridge } := by
  by_cases h : HandoverDue s
  · rw [State.handedOver_of_due h]
  · rw [State.handedOver_of_not_due h]

@[simp] theorem State.handedOver_cfg (s : State) : s.handedOver.cfg = s.cfg := by rw [State.handedOver_eq]
@[simp] theorem State.handedOver_fg (s : State) : s.handedOver.fg = s.fg := by rw [State.handedOver_eq]
@[simp] theorem State.handedOver_env (s : State) : s.handedOver.env = s.env := by rw [State.handedOver_eq]
@[simp] theorem State.handedOver_rd (s : State) (st : Store) (a : Nat) : s.handedOver.rd st a = s.rd st a := by
  rw [State.handedOver_eq]
  rfl

theorem State.handedOver_readBytes (s : State) (st : Store) (n : Nat) :
    s.handedOver.readBytes st n = s.readBytes st n :=
  List.map_congr_left fun a _ => s.handedOver_rd st a

theorem State.startTick_eq (s : State) :
    s.startTick =
      { s with
        tickCond := 0
        bridge :=
          ⟨s.bridge.credit,
            if s.bridge.buildLen = 0 then s.bridge.gapTmr else BitVec.ofNat 16 (min (s.bridge.gapTmr.toNat + 1) 0xFFFF),
            s.bridge.buildLen⟩ } := by
  unfold State.startTick State.bridgeTimer
  by_cases h : s.bridge.buildLen = 0
  · rw [if_neg (by simp [h]), if_pos h]
  · rw [if_pos (by exact Nat.pos_of_ne_zero h), if_neg h]
    rfl

@[simp] theorem State.startTick_cfg (s : State) : s.startTick.cfg = s.cfg := by rw [State.startTick_eq]
@[simp] theorem State.startTick_fg (s : State) : s.startTick.fg = s.fg := by rw [State.startTick_eq]
@[simp] theorem State.startTick_env (s : State) : s.startTick.env = s.env := by rw [State.startTick_eq]
@[simp] theorem State.startTick_tun (s : State) : s.startTick.tun = s.tun := by rw [State.startTick_eq]
@[simp] theorem State.startTick_cnt (s : State) : s.startTick.cnt = s.cnt := by rw [State.startTick_eq]
@[simp] theorem State.startTick_srx (s : State) : s.startTick.srx = s.srx := by rw [State.startTick_eq]
@[simp] theorem State.startTick_stx (s : State) : s.startTick.stx = s.stx := by rw [State.startTick_eq]
@[simp] theorem State.startTick_buildLen (s : State) : s.startTick.bridge.buildLen = s.bridge.buildLen := by
  rw [State.startTick_eq]
@[simp] theorem State.startTick_rd (s : State) (st : Store) (a : Nat) : s.startTick.rd st a = s.rd st a := by
  rw [State.startTick_eq]
  rfl
@[simp] theorem State.startTick_readBytes (s : State) (st : Store) (n : Nat) :
    s.startTick.readBytes st n = s.readBytes st n := by
  rw [State.startTick_eq]
  rfl

/-- The start of a tick leaves SRX alone. -/
theorem State.startTick_ring (s : State) :
    s.startTick.ringUsed .srx = s.ringUsed .srx ∧ s.startTick.ringContents .srx = s.ringContents .srx := by
  rw [State.startTick_eq]
  exact ⟨rfl, rfl⟩

end Handover

/-! ## A whole tick (R241) -/

section WholeTick

variable {s : State}

/-- A tick run to its end drains SRX, hands the packet over, receives, and ends (R241). -/
theorem State.runBulk_tick (s : State) (hk : s.cfg.fecK ≤ 255) :
    ∃ n, n ≤ s.tun.maxpay.toNat - s.bridge.buildLen
      ∧ (cursorsOk (s.cap .srx) (s.cursors .srx) = true →
        n = min (s.tun.maxpay.toNat - s.bridge.buildLen) (s.ringUsed .srx))
      ∧ State.runBulk 600 (s.drainStep true) = State.afterReceive (s.drained n).handedOver.receiveStep := by
  have hmax := s.tun.maxpay.isLt
  obtain ⟨n, x, popped, fuel, hle, hn, hmin, hrun⟩ := s.runBulk_drainStep true (fuel := 600) (by omega)
  refine ⟨n, hn, hmin, hrun.trans ?_⟩
  have hfuel : ((s.drained n).withBulk x).handedOver.cfg.fecK < fuel := by
    rw [State.handedOver_cfg]
    change (s.drained n).cfg.fecK < fuel
    rw [(s.drained_keeps n).1]
    omega
  refine (State.runBulk_tickReceive hfuel popped).trans ?_
  rw [State.handedOver_withBulk, State.afterReceive_withBulk]

end WholeTick

/-! ## The delivery (R245) -/

/-- The end of a delivery: RX_DELIVERED, and RX_OVERFLOW if a byte was dropped (R245). -/
theorem State.endPush_inTick (s : State) (full : Bool) (count : Nat) :
    s.endPush true full count =
      { s with tickCond := s.tickCond ||| if full then 0x0018 else 0x0008 }.finishTick := by
  cases full
  · rfl
  · have hbits : (s.tickCond ||| BitVec.twoPow 16 condRxDelivered) ||| BitVec.twoPow 16 condRxOverflow =
      s.tickCond ||| 0x0018 := BitVec.or_assoc ..
    rw [if_pos rfl, ← hbits]
    rfl

/-! ## The rows of R261 -/

section Rows

variable {s : State}

/-- A data packet is held back by the credit (R254). -/
def Suppressed (s : State) : Prop :=
  ∃ p, s.txPending = some p ∧ s.tun.peerNoRoom = true ∧ p.type = 0 ∧ s.bridge.credit ≠ 0

/-- TRANSMIT_WINDOW finds nothing to send (R253, R254). -/
def NoCandidate (s : State) : Prop :=
  s.replyPending = none ∧ s.hbReq = false ∧ (s.txPending = none ∨ Suppressed s)

theorem State.chooseCandidate_of_noCandidate (h : NoCandidate s) : ∃ u, s.chooseCandidate = (none, u) := by
  obtain ⟨hr, hh, ht | ⟨p, hp, hsup⟩⟩ := h
  · exact ⟨s, State.chooseCandidate_of_nothing hr hh ht⟩
  · exact ⟨_, (State.chooseCandidate_of_pending hr hh hp).trans (State.dataCandidate_of_suppressed hsup)⟩

/-- A chosen candidate leaves the state alone. -/
theorem State.chooseCandidate_of_candidate (h : ¬ NoCandidate s) : ∃ k, s.chooseCandidate = (some k, s) := by
  cases hr : s.replyPending with
  | some q => exact ⟨_, State.chooseCandidate_of_reply hr⟩
  | none =>
    cases hh : s.hbReq with
    | true => exact ⟨_, State.chooseCandidate_of_heartbeat hr hh⟩
    | false =>
      cases ht : s.txPending with
      | none => exact absurd ⟨hr, hh, .inl ht⟩ h
      | some p =>
        refine ⟨_, (State.chooseCandidate_of_pending hr hh ht).trans (State.dataCandidate_of_sent fun hsup => h ?_)⟩
        exact ⟨hr, hh, .inr ⟨p, ht, hsup⟩⟩

theorem State.keyTransmitter_state (s : State) (k : Candidate) : (s.keyTransmitter k).sch.state = .listen := rfl

/-- TRANSMIT_WINDOW goes to BACKOFF with a candidate and no budget, and to LISTEN otherwise (R253 to R257). -/
theorem State.transmitWindow_state (s : State) :
    (NoCandidate s → s.transmitWindow.sch.state = .listen)
    ∧ (¬ NoCandidate s → s.noBudget = true → s.transmitWindow.sch.state = .backoff)
    ∧ (¬ NoCandidate s → s.noBudget = false → s.transmitWindow.sch.state = .listen) := by
  refine ⟨fun h => ?_, fun h hb => ?_, fun h hb => ?_⟩
  · obtain ⟨u, hu⟩ := State.chooseCandidate_of_noCandidate (s := { s with sch := { s.sch with clearCnt := 0 } }) h
    rw [State.transmitWindow_of_none hu]
  · obtain ⟨k, hk⟩ := State.chooseCandidate_of_candidate (s := { s with sch := { s.sch with clearCnt := 0 } }) h
    rw [State.transmitWindow_of_exhausted hk hb]
    rfl
  · obtain ⟨k, hk⟩ := State.chooseCandidate_of_candidate (s := { s with sch := { s.sch with clearCnt := 0 } }) h
    rw [State.transmitWindow_of_budget hk hb, State.keyTransmitter_state]

theorem Config.wf_minClear {c : Config} (h : c.wf = true) : c.minClearTicks ≤ 255 := by
  simp only [Config.wf, Bool.and_eq_true, decide_eq_true_eq] at h
  omega

theorem State.stateAction_of_listen (h : s.sch.state = .listen) : s.stateAction = s.listen := by
  simp only [State.stateAction, h]

theorem State.stateAction_of_transmitWindow (h : s.sch.state = .transmitWindow) : s.stateAction = s.transmitWindow := by
  simp only [State.stateAction, h]

theorem State.stateAction_of_backoff (h : s.sch.state = .backoff) : s.stateAction = s.backoffTick := by
  simp only [State.stateAction, h]

end Rows

/-! ## What one step of a tick may change (R269) -/

section TickFrame

variable {p : Store → Nat → Prop} {calls : List Event} {s t : State}

/-- T3 changes no byte, T4 only those of the frame it sends (R256, R269). -/
theorem State.finishTick_bytes (hp : CoversFrames p s.cfg) : SameBytesBut p s s.finishTick := by
  have htime : SameBytesBut p s s.dutyWindow.slotRotate := fun st a _ => by
    rw [State.slotRotate_eq, State.dutyWindow_eq]
    rfl
  have hcfg : s.dutyWindow.slotRotate.cfg = s.cfg := by
    rw [State.slotRotate_eq, State.dutyWindow_eq]
  have haction : SameBytesBut p s.dutyWindow.slotRotate s.timeAndState := fun st a hpa => by
    refine (State.stateAction_effect _).bytes st a ?_
    rw [hcfg]
    rintro (⟨rfl, ha⟩ | ⟨rfl, ha⟩)
    · exact hpa (hp.2 a ha).1
    · exact hpa (hp.1 a ha).1
  exact htime.trans haction

theorem TickOutcome.bytes (ho : TickOutcome p calls s t) (hp : CoversFrames p s.cfg) : SameBytesBut p s t := by
  rcases ho with h | ⟨w, hw, rfl⟩
  · exact h.bytes
  · exact hw.bytes.trans (State.finishTick_bytes (hw.sched.cfg ▸ hp))

theorem TickOutcome.result (ho : TickOutcome p calls s t) : t.fg.result = s.fg.result := by
  rcases ho with h | ⟨w, hw, rfl⟩
  · exact h.sched.result
  · rw [w.finishTick_done.1]
    exact hw.sched.result

theorem ActionCalls.shape {before after : SchState} (h : ActionCalls before after calls) :
    calls = [] ∨ (∃ clear rssi, calls = [.channelClear clear, .readRssi rssi])
      ∨ ∃ radio ok, calls = [.transmit radio ok] := by
  cases h with
  | listen _ clear rssi => exact .inr (.inl ⟨clear, rssi, rfl⟩)
  | silent => exact .inl rfl
  | keyed _ radio ok => exact .inr (.inr ⟨radio, ok, rfl⟩)
  | waiting => exact .inl rfl

/-- The calls of T3 and T4: at most one to tune the radio, then those of one state action (R241). -/
theorem State.finishTick_calls (s : State) :
    ∃ moved acted, s.finishTick.history = s.history ++ moved ++ acted
      ∧ (moved = [] ∨ ∃ slot, moved = [.setChannel slot])
      ∧ (acted = [] ∨ (∃ clear rssi, acted = [.channelClear clear, .readRssi rssi])
        ∨ ∃ radio ok, acted = [.transmit radio ok]) := by
  obtain ⟨-, moved, hh, hmoved⟩ := s.timeAccounting_calls
  obtain ⟨acted, hacted, hcalls⟩ := (State.stateAction_effect s.dutyWindow.slotRotate).calls
  exact ⟨moved, acted, hacted.trans (by rw [hh]), hmoved, hcalls.shape⟩

/-- The oracle calls of one step of a tick, in the order of R241. -/
theorem TickOutcome.calls_in_order (ho : TickOutcome p calls s t) (hcalls : ReceiveCalls calls) :
    ∃ received dispatched moved acted : List Event,
      t.history = s.history ++ received ++ dispatched ++ moved ++ acted
      ∧ (received = [] ∨ ∃ a, received = [.receive a]) ∧ (dispatched = [] ∨ ∃ q a, dispatched = [.dispatch q a])
      ∧ (moved = [] ∨ ∃ slot, moved = [.setChannel slot])
      ∧ (acted = [] ∨ (∃ clear rssi, acted = [.channelClear clear, .readRssi rssi])
        ∨ ∃ radio ok, acted = [.transmit radio ok]) := by
  obtain ⟨received, dispatched, rfl, hr, hd⟩ := hcalls
  rcases ho with h | ⟨w, hw, rfl⟩
  · exact ⟨received, dispatched, [], [], by simp [h.history], hr, hd, .inl rfl, .inl rfl⟩
  · obtain ⟨moved, acted, hh, hm, ha⟩ := w.finishTick_calls
    exact ⟨received, dispatched, moved, acted, by rw [hh, hw.history, ← List.append_assoc], hr, hd, hm, ha⟩

theorem State.startTick_effect (s : State) : BulkEffect s s.startTick := by
  rw [State.startTick_eq]
  exact .of_fields rfl ⟨rfl, rfl, rfl⟩ id fun _ => Nat.two_pow_pos 13

/-- One step of a tick: the start of SCH.TICK or one of its micro-steps. -/
theorem tickStep_effect
    (h : (FgReady s ∧ supported s.cfg s.cfg.fecK = true ∧ exec .schTick s = .next t)
      ∨ ∃ b, s.bulk = some b ∧ b.ofTick = true ∧ t = s.microStep)
    (hp : CoversFrames p s.cfg) (hstx : p .stx s.stx.insert) (hbuild : p .build s.bridge.buildLen) :
    BulkEffect s t ∧ ∃ calls, ReceiveCalls calls ∧ TickOutcome p calls s t := by
  obtain ⟨hf, hk, he⟩ | ⟨b, hb, htick, rfl⟩ := h
  · rw [exec_schTick hf hk] at he
    cases he
    obtain ⟨calls, hcalls, ho⟩ := State.drainStep_outcome (p := p) (s := s.startTick) (by simpa using hp)
      (by simpa using hstx) (by simpa using hbuild)
    exact ⟨s.startTick_effect.trans (State.drainStep_effect _ true)
      ⟨.inl (by simp), .inl (by simp), .inl (by simp)⟩, calls, hcalls, (s.startTick_prefix p).outcome ho⟩
  · refine ⟨s.microStep_effect, ?_⟩
    simp only [State.microStep, hb]
    exact Bulk.step_outcome htick hp hstx hbuild

end TickFrame

section TickInOrder

variable {s : State}

/-- With no frame to receive, a tick ends once its drain is over (R241, R243). -/
theorem State.endDrain_of_silence (h : s.handedOver.askReceive.1 = none) (popped : Bool) :
    s.endDrain true popped = s.handedOver.askReceive.2.finishTick := by
  change s.handedOver.tickReceive popped = _
  simp only [State.tickReceive, State.receiveStep_of_none h]

/-- With SRX empty the drain is over at once, whether or not the packet is full (R301). -/
theorem State.drainStep_of_ringEmpty (he : s.ringEmpty .srx = true) (inTick : Bool) :
    ∃ popped, s.drainStep inTick = s.endDrain inTick popped := by
  by_cases hfull : s.tun.maxpay.toNat ≤ s.bridge.buildLen
  · exact ⟨false, State.drainStep_of_full hfull⟩
  · exact ⟨true, State.drainStep_of_empty hfull he⟩

/-- The state of a tick after its drain has moved `n` bytes (R241, R300, R301). -/
theorem State.drained_startTick_eq (h : s.srx.remove < s.cfg.rxCap) (n : Nat) :
    s.startTick.drained n =
      { s with
        mem := (s.startTick.drained n).mem
        tickCond := 0
        srx := ⟨s.srx.insert, (s.srx.remove + n) % s.cfg.rxCap⟩
        bridge :=
          ⟨s.bridge.credit,
            if n = 0 then
              if s.bridge.buildLen = 0 then s.bridge.gapTmr
              else BitVec.ofNat 16 (min (s.bridge.gapTmr.toNat + 1) 0xFFFF)
            else 0,
            s.bridge.buildLen + n⟩ } := by
  refine (State.drained_eq (by simpa using h) n).trans ?_
  generalize (s.startTick.drained n).mem = m
  rw [State.startTick_eq]

/-- The packet of a tick after its drain. -/
theorem State.drained_startTick_packet (h : s.srx.remove < s.cfg.rxCap) {n : Nat} (hn : n ≤ s.ringUsed .srx) :
    (s.startTick.drained n).readBytes .build (s.bridge.buildLen + n) =
      s.readBytes .build s.bridge.buildLen ++ (s.ringContents .srx).take n := by
  have hring := s.startTick_ring
  have hpacket := State.drained_packet (s := s.startTick) (by simpa using h) (hring.1 ▸ hn)
  rwa [State.startTick_buildLen, State.startTick_readBytes, hring.2] at hpacket

theorem State.drained_startTick_sameBytes (h : s.srx.remove < s.cfg.rxCap) (n : Nat) :
    SameBytesBut (fun st a => st = .build ∧ s.bridge.buildLen ≤ a ∧ a < s.bridge.buildLen + n) s
      (s.startTick.drained n) := by
  intro st a hout
  rw [State.rd_drained (by simpa using h), State.startTick_buildLen, if_neg hout, State.startTick_rd]

end TickInOrder

end Sys2Proof.Machine

namespace Sys2Proof.Proofs

open Sys2Proof.Machine

/-- Settles O38: the operands are checked, then the slot. -/
theorem schSubmitFillsThePendingSlot : Obligations.SchSubmitFillsThePendingSlot := by
  intro s type len h
  have hok : (type = 0 ∨ type = 2) → len ≤ s.tun.maxpay.toNat →
      ¬ ((type ≠ tagData ∧ type ≠ tagRemoteAt) ∨ s.tun.maxpay.toNat < len) := by
    rintro htype hlen (⟨h0, h2⟩ | hlt)
    · exact htype.elim h0 h2
    · exact absurd hlen hlt.not_ge
  change (_ → execSchSubmit type len s = _) ∧ (_ → _ → _ → execSchSubmit type len s = _)
    ∧ (_ → _ → _ → execSchSubmit type len s = _)
  unfold execSchSubmit
  refine ⟨fun hbad => h.gate_eq rfl ?_, fun htype hlen hfull => h.gate_eq rfl ?_,
    fun htype hlen hempty => h.gate_eq rfl ?_⟩
  · exact (if_pos hbad).trans s.raise_rangeError
  · rw [if_neg (hok htype hlen), if_pos (Option.isSome_iff_ne_none.2 hfull)]
    exact s.raise_eq_onlyErr (by decide)
  · rw [if_neg (hok htype hlen), if_neg (by simp [hempty])]
    exact State.done_fg h.1

/-- Settles O39: each command changes its flag, then completes; the words are computed. -/
theorem requestFlagCommands : Obligations.RequestFlagCommands := by
  intro s h
  refine ⟨?_, ?_, ?_, rfl, rfl, rfl⟩
  · change execSchHbreq s = _
    exact h.gate_eq rfl (State.done_fg (s := { s with hbReq := true }) h.1)
  · change execSchHbclr s = _
    exact h.gate_eq rfl (State.done_fg (s := { s with hbReq := false }) h.1)
  · change execSchRpclr s = _
    exact h.gate_eq rfl (State.done_fg (s := { s with replyPending := none }) h.1)

/-- Settles O40: the drain stops when the packet is full, the delivery when its bytes are pushed; both fit the bound. -/
theorem tickAlwaysCompletes : Obligations.TickAlwaysCompletes := by
  intro s h hc hk
  refine ⟨_, exec_schTick h hk, ?_⟩
  obtain ⟨n, -, -, hrun⟩ := s.startTick.runBulk_tick (by simpa using (Config.wf_fec hc).1.2)
  have hfg : (s.startTick.drained n).handedOver.fg = s.fg := by
    rw [State.handedOver_fg, (State.drained_keeps _ n).2, State.startTick_fg]
  rw [hrun, ← hfg]
  exact State.afterReceive_done _

/-- Settles O41: a tick drains SRX, hands over and receives; a quiet one does so in one step. -/
theorem tickInOrder : Obligations.TickInOrder := by
  refine ⟨fun s q n h hk hempty hdraw => ?quiet, fun s h hb hk hok => ?any⟩
  case quiet =>
    intro len gap ready t u v
    have hdue : HandoverDue s.startTick ↔ ready := by
      rw [State.startTick_eq]
      rfl
    have hask : s.startTick.handedOver.askReceive = (none, t) := by
      have hdraw' : draw s.startTick.handedOver.env.answers.receive Config.drawReceive s.startTick.handedOver.env.draws
          = (none, q, n) := by
        rw [State.handedOver_env, State.startTick_env]
        exact hdraw
      rw [State.askReceive_of_draw hdraw']
      by_cases hready : ready
      · rw [State.handedOver_of_due (hdue.2 hready), State.startTick_eq]
        simp only [t, if_pos hready]
        rfl
      · rw [State.handedOver_of_not_due (mt hdue.1 hready), State.startTick_eq]
        simp only [t, if_neg hready]
        rfl
    obtain ⟨popped, hend⟩ := State.drainStep_of_ringEmpty (s := s.startTick)
      (by rw [State.ringEmpty]; simpa [State.cursors] using hempty) true
    rw [exec_schTick h hk, hend, State.endDrain_of_silence (by rw [hask]), hask]
    rfl
  case any =>
    refine ⟨_, exec_schTick h hk, ?_⟩
    intro started n len gap packet ready
    obtain ⟨m, -, hm, hrun⟩ := s.startTick.runBulk_tick (by simpa using ((supported_iff _ _).1 hk).2.1)
    have hn : n ≤ s.ringUsed .srx := Nat.min_le_right ..
    obtain ⟨-, hremove⟩ := cursorsOk_iff.1 hok
    have hm : m = n := by
      rw [hm (by simpa [State.cap, State.cursors] using hok), s.startTick_ring.1, State.startTick_tun,
        State.startTick_buildLen]
    rw [hm] at hrun
    have hdrained := State.drained_startTick_eq hremove n
    have hpacket := State.drained_startTick_packet hremove hn
    have hbytes := State.drained_startTick_sameBytes hremove n
    have hdue : HandoverDue (s.startTick.drained n) ↔ ready := by
      rw [hdrained]
      rfl
    refine ⟨(s.startTick.drained n).handedOver, (State.handedOver_readBytes ..).trans hpacket,
      fun st a hout => (State.handedOver_rd ..).trans (hbytes st a hout), ?frame, ?ends⟩
    case frame =>
      by_cases hready : ready
      · have hlen : (s.startTick.drained n).bridge.buildLen = len := by rw [hdrained]
        rw [State.handedOver_of_due (hdue.2 hready), hlen, hpacket]
        simp only [if_pos hready]
        rw [hdrained]
        dsimp only
        congr 1
      · rw [State.handedOver_of_not_due (mt hdue.1 hready)]
        simp only [if_neg hready]
        rw [hdrained]
    case ends =>
      rw [hrun]
      rcases (s.startTick.drained n).handedOver.receiveStep with ⟨_ | payload, v⟩ <;> rfl

/-- Settles O42: a step of a tick is a part of T1 and T2, and if the tick ends with it, T3 and T4. -/
theorem tickStepFrame : Obligations.TickStepFrame := by
  intro s t h
  obtain ⟨heffect, calls, hcalls, ho⟩ := tickStep_effect h
    (p := fun st a =>
      ((st = .blk ∨ st = .pay) ∧ a < s.cfg.fecK) ∨ ((st = .txb ∨ st = .rxb) ∧ a < 6 + s.cfg.fecN)
        ∨ (st = .stx ∧ a = s.stx.insert) ∨ (st = .build ∧ a = s.bridge.buildLen))
    ⟨fun a ha => by simp [ha], fun a (ha : a < 6 + s.cfg.fecN) => by simp [ha]⟩ (by simp) (by simp)
  refine ⟨ho.bytes ⟨fun a ha => by simp [ha], fun a (ha : a < 6 + s.cfg.fecN) => by simp [ha]⟩, ?_,
    ho.calls_in_order hcalls⟩
  have hfg : (⟨s.fg.result, t.fg.err⟩ : PortRegs) = t.fg := by rw [← ho.result]
  have henv : ({ s.env with answers := t.env.answers, draws := t.env.draws } : Env) = t.env := by
    obtain ⟨hprogram, hpreempt, hepoch⟩ := heffect.inputs
    dsimp only
    rw [← hprogram, ← hpreempt, ← hepoch]
  rw [hfg, henv]
  exact heffect.same.symm

/-- Settles O43, by the answer, then its length, then its network. -/
theorem receiveFiltersFrames : Obligations.ReceiveFiltersFrames := by
  intro s answer q n hdraw env
  have hask := State.askReceive_of_draw hdraw
  refine ⟨?none, fun radio hradio => ?some⟩
  case none =>
    rintro rfl
    rw [State.receiveStep_of_none (by rw [hask]), hask]
  case some =>
    subst hradio
    have hsome : s.askReceive.1 = some radio := by rw [hask]
    refine ⟨fun hl => ?_, fun hl hn => ?_, fun hl hn => ?_⟩
    · rw [State.receiveStep_of_wrong_length hsome hl, hask]
      rfl
    · rw [State.receiveStep_of_other_network hsome hl (mt (frameNetid_eq_iff ..).1 hn), hask]
      simp only [State.setCond, State.writeBytes_tickCond]
      rfl
    · rw [State.receiveStep_of_own_network hsome hl ((frameNetid_eq_iff ..).2 hn), hask]
      rfl

/-- Settles O44, by the outcome of `Deframe`, then the type of the packet. -/
theorem receivedPacketsByType : Obligations.ReceivedPacketsByType := by
  intro s radio
  refine ⟨fun hd => ?bad, fun hd => ?uncorrectable, fun d hd => ?ok⟩
  case bad | uncorrectable =>
    simp only [State.receiveFrame, hd]
    rfl
  intro t
  refine ⟨fun htype => ?deliver, fun htype => ?drop, fun htype a q n hdraw => ?dispatch⟩
  case deliver => rw [State.receiveFrame_of_ok hd, if_pos htype, State.countedPacket]
  case drop =>
    have h03 : ¬ (d.type = 0 ∨ d.type = 3) := by bv_omega
    have h2 : d.type ≠ 2 := by bv_omega
    rw [State.receiveFrame_of_ok hd, if_neg h03, if_neg h2]
    rfl
  case dispatch =>
    have h03 : ¬ (d.type = 0 ∨ d.type = 3) := by bv_omega
    rw [State.receiveFrame_of_ok hd, if_neg h03, if_pos htype, State.remoteAt_of_draw (a := a) (q := q) (n := n)]
    · cases a <;> simp [t, State.countedPacket]
    · simpa [State.countedPacket] using hdraw

/-- Settles O45: the push loop stops at the first byte that does not fit, and the tick ends. -/
theorem deliveryPushesAndGoesOn : Obligations.DeliveryPushesAndGoesOn := by
  intro s payload hok n u
  obtain ⟨x, hrun⟩ := State.runBulk_pushStep hok true payload 0 le_rfl
  have hcnt := s.pushPrefix_cnt payload
  have hcond : (s.pushPrefix payload).tickCond = s.tickCond := by rw [State.pushPrefix_frame]
  have hfull : (if decide (s.ringFree .stx < payload.length) then (0x0018 : Half) else 0x0008) =
      if n = payload.length then 0x0008 else 0x0018 := by
    by_cases hlt : s.ringFree .stx < payload.length
    · rw [if_pos (decide_eq_true hlt), if_neg (by omega)]
    · rw [if_neg (by simpa using hlt), if_pos (by omega)]
  refine ⟨{ (s.pushPrefix payload).withBulk x with
      tickCond := s.tickCond ||| if n = payload.length then 0x0008 else 0x0018 }, State.pushPrefix_stx hok payload,
    State.pushPrefix_contents hok payload, rfl, hcnt, State.pushPrefix_sameBytes hok payload, ?_, ?_⟩
  · change { s.pushPrefix payload with
      mem := s.mem, stx := s.stx, tickCond := s.tickCond, cnt := s.cnt, bulk := s.bulk } = s
    rw [State.pushPrefix_frame]
  · rw [← hfull, ← hcond]
    exact hrun.trans (State.endPush_inTick _ _ _)

/-- Settles O46, by whether the window, the slot timer and the slots are over. -/
theorem timeAccounting : Obligations.TimeAccounting := by
  intro s hc hslot
  refine ⟨State.dutyWindow_of_le, State.dutyWindow_of_lt, State.slotRotate_of_lt, fun h hone => ?_,
    fun new h hmany hnew => ?_⟩
  · refine State.slotRotate_of_same h ?_
    rw [hone, Nat.mod_one]
    omega
  · exact State.slotRotate_of_new h hnew (hnew ▸ next_slot_ne hslot hmany)

/-- Settles O47: the tick asks both oracles, then goes by the busy test of R251. -/
theorem listenTick : Obligations.ListenTick := by
  intro s clear cq rssi rq n m hclear hrssi t clears retries
  have hcount : BitVec.ofNat 8 clears = satInc8 s.sch.clearCnt := rfl
  refine ⟨fun hbusy => ?_, fun htrue hquiet => ?_⟩
  · rw [State.listen_of_busy hclear hrssi ((channelBusy_iff ..).2 hbusy), satInc8_toNat]
    rfl
  · have hidle : channelBusy s.tun.lbt clear rssi = false := by
      rw [Bool.eq_false_iff, ne_eq, channelBusy_iff]
      rintro (hfalse | ⟨hne, hle⟩)
      · rw [htrue] at hfalse
        cases hfalse
      · exact hquiet.elim hne hle.not_gt
    rw [State.listen_of_clear hclear hrssi hidle, satInc8_toNat]
    rfl

/-- Settles O48, by the three pending slots in their order, and the credit. -/
theorem candidatePriorityAndCredit : Obligations.CandidatePriorityAndCredit := by
  intro s
  refine ⟨fun q hq => State.chooseCandidate_of_reply hq, State.chooseCandidate_of_heartbeat,
    State.chooseCandidate_of_nothing, fun p hr hh ht => ?_⟩
  rw [State.chooseCandidate_of_pending hr hh ht]
  refine ⟨State.dataCandidate_of_suppressed, fun hsend => State.dataCandidate_of_sent ?_⟩
  rintro ⟨hroom, htype, hcredit⟩
  obtain h | h | h := hsend
  · rw [hroom] at h
    cases h
  · exact h htype
  · exact hcredit h

/-- Settles O49, by the candidate, then the budget. -/
theorem transmitWindowBudget : Obligations.TransmitWindowBudget := by
  intro s t
  refine ⟨fun u => State.transmitWindow_of_none, fun k u hk => ⟨fun hduty hlt => ?_, fun hbudget => ?_⟩⟩
  · exact State.transmitWindow_of_exhausted hk (u.noBudget_iff.2 ⟨hduty, hlt⟩)
  · refine State.transmitWindow_of_budget hk ?_
    rw [Bool.eq_false_iff, ne_eq, State.noBudget_iff]
    rintro ⟨hduty, hlt⟩
    exact hbudget.elim hduty hlt.not_ge

/-- Settles O50: the frame is stored and the radio asked; what follows goes by its answer. -/
theorem keyedTransmission : Obligations.KeyedTransmission := by
  intro s k ok q n hdraw sent t
  have hkey := State.keyTransmitter_of_draw hdraw k
  have ht : t = s.sentFrame sent ok q n := by simp [t, State.sentFrame, State.storeFrame]
  refine ⟨?_, ?_⟩ <;> rintro rfl <;> rw [hkey, ht]
  · rfl
  · rw [if_pos rfl, State.transmitted_eq]
    rfl

/-- Settles O52: what a step can do with the scheduler, the rows of R261, and that TRANSMIT_WINDOW is always left. -/
theorem schedulerTransitions : Obligations.SchedulerTransitions := by
  refine ⟨fun s t hs => ?step, fun v hc => ⟨fun hv clear cq rssi rq n m hclear hrssi => ?listen, fun hv => ?window,
    fun hv => ?backoff⟩, fun s hs => ?leaves⟩
  case step =>
    obtain ⟨hsch, -⟩ | ⟨hmove, hsch, -⟩ | ⟨hmove, calls, -, hp | ⟨w, hw, rfl⟩⟩ := step_sched hs
    · exact .inl (by rw [hsch])
    · exact .inr (.inl ⟨by rw [hsch], hmove⟩)
    · exact .inl (by rw [hp.sched.sch])
    · have hfg : w.finishTick.fg = ⟨s.fg.result, 0⟩ := by rw [w.finishTick_done.1, hw.sched.result]
      refine .inr (.inr ⟨hmove, w, hw.sched.cfg, hw.sched.tun, hw.sched.sch, hw.sched.credit, hw.sched.hbReq,
        hw.sched.channelClear, hw.sched.rssi, hw.sched.transmit, ?_⟩)
      rw [← hfg]
      rfl
  case listen =>
    have hcount := satInc8_toNat v.sch.clearCnt
    have hmin := Config.wf_minClear hc
    have hbusy := channelBusy_iff v.tun.lbt clear rssi
    rw [State.stateAction_of_listen hv]
    refine ⟨fun hb => ?_, fun hb hle => ?_, fun hb hlt => ?_⟩
    · rw [State.listen_of_busy hclear hrssi (hbusy.2 hb)]
    · rw [State.listen_of_clear hclear hrssi (Bool.eq_false_iff.2 (mt hbusy.1 hb))]
      exact if_pos (by omega)
    · rw [State.listen_of_clear hclear hrssi (Bool.eq_false_iff.2 (mt hbusy.1 hb))]
      exact (if_neg (by omega)).trans hv
  case window =>
    obtain ⟨hnone, hback, hkeyed⟩ := v.transmitWindow_state
    rw [State.stateAction_of_transmitWindow hv]
    exact ⟨hnone, fun h hb => hback h (v.noBudget_iff.2 hb),
      fun h hb => hkeyed h (Bool.eq_false_iff.2 (mt v.noBudget_iff.1 hb))⟩
  case backoff =>
    rw [State.stateAction_of_backoff hv]
    refine ⟨fun hlt => ?_, fun hle => ?_⟩
    · rw [State.backoffTick_of_one_lt hlt]
      exact hv
    · rw [State.backoffTick_of_le_one hle]
  case leaves =>
    obtain ⟨calls, -, hcalls⟩ := (State.stateAction_effect s.dutyWindow.slotRotate).calls
    rw [s.timeAccounting_calls.1, hs] at hcalls
    change s.dutyWindow.slotRotate.stateAction.sch.state ≠ _
    generalize s.dutyWindow.slotRotate.stateAction.sch.state = after at hcalls
    cases hcalls with
    | silent _ hafter => exact hafter
    | keyed _ radio ok hafter => exact hafter

/-- Settles O56: T3 widens or restarts the window, T4 charges it only within the budget; no other step touches it. -/
theorem dutyCycleBound : Obligations.DutyCycleBound := by
  intro s t hc h hs hduty
  obtain hkeep | ⟨-, hsch, -⟩ | ⟨-, calls, -, ho⟩ := step_sched hs
  · exact h.of_sch_eq hkeep.1 hduty
  · intro _
    rw [hsch]
    exact Nat.zero_le _
  · exact h.of_outcome hc ho

/-- Settles O57: only a TRANSMIT_WINDOW tick transmits, and that state is entered on a clear answer only. -/
theorem listenBeforeTalkKept : Obligations.ListenBeforeTalkKept := by
  intro s t h hs
  obtain ⟨hsch, hh⟩ | ⟨-, hsch, hh⟩ | ⟨-, calls, hcalls, ho⟩ := step_sched hs
  · rw [ListenBeforeTalk, hsch, hh]
    exact h
  · rw [ListenBeforeTalk, hsch, hh]
    exact ⟨by simp [TransmitsOnlyWhenClear], nofun⟩
  · exact h.of_outcome hcalls ho

end Sys2Proof.Proofs

/-! SUPPORT. The statement on `spec/45_serial_bridge.md`: BR.DRAIN run to its end (R301, R302, R307). -/

namespace Sys2Proof.Machine

section BrDrain

variable {s : State}

theorem State.endDrain_of_due (h : HandoverDue s) (popped : Bool) :
    s.endDrain false popped = s.handover.finishBulk 1 0 := by
  rw [State.endDrain, s.handoverReady_iff.2 h]
  rfl

theorem State.endDrain_of_not_due (h : ¬ HandoverDue s) (popped : Bool) :
    s.endDrain false popped = s.finishBulk 0 0 := by
  rw [State.endDrain, Bool.eq_false_iff.2 (mt s.handoverReady_iff.1 h)]
  rfl

/-- The end of BR.DRAIN clears the record of its progress, and its answer does not depend on it. -/
theorem State.endDrain_withBulk (s : State) (x : Option Bulk) (popped : Bool) :
    (s.withBulk x).endDrain false popped = s.endDrain false popped := by
  by_cases h : HandoverDue s
  · rw [State.endDrain_of_due h, State.endDrain_of_due (s := s.withBulk x) h]
    rfl
  · rw [State.endDrain_of_not_due h, State.endDrain_of_not_due (s := s.withBulk x) h]
    rfl

/-- The end of BR.DRAIN changes the pending slot and the bridge, and completes the command (R302, R307). -/
theorem State.endDrain_frame (s : State) (popped : Bool) :
    s.endDrain false popped =
      { s with
        txPending := (s.endDrain false popped).txPending
        bridge := (s.endDrain false popped).bridge
        fg := (s.endDrain false popped).fg
        bulk := none } := by
  by_cases h : HandoverDue s
  · rw [State.endDrain_of_due h]
    rfl
  · rw [State.endDrain_of_not_due h]
    rfl

theorem State.endDrain_done (s : State) (popped : Bool) : (s.endDrain false popped).bulk = none := rfl

theorem State.endDrain_srx (s : State) (popped : Bool) : (s.endDrain false popped).srx = s.srx := by
  rw [State.endDrain_frame]

/-- The end of BR.DRAIN changes no byte: a handover copies the packet (R302). -/
theorem State.endDrain_rd (s : State) (popped : Bool) (st : Store) (a : Nat) :
    (s.endDrain false popped).rd st a = s.rd st a := by
  rw [State.endDrain_frame]
  rfl

/-- A drain moves the remove cursor of SRX past the bytes that left it (R301). -/
theorem State.drained_srx (h : s.srx.remove < s.cfg.rxCap) (n : Nat) :
    (s.drained n).srx = ⟨s.srx.insert, if n = 0 then s.srx.remove else (s.srx.remove + n) % s.cfg.rxCap⟩ := by
  cases n with
  | zero => rfl
  | succ n => rw [if_neg n.succ_ne_zero, State.drained_eq h]

/-- BR.DRAIN run to its end moves what SRX holds and the packet has room for, then ends the drain (R307). -/
theorem State.runBulk_brDrain (h : cursorsOk (s.cap .srx) (s.cursors .srx) = true) :
    ∃ popped, State.runBulk s.tun.maxpay.toNat (s.drainStep false) =
      (s.drained (min (s.tun.maxpay.toNat - s.bridge.buildLen) (s.ringUsed .srx))).endDrain false popped := by
  obtain ⟨n, x, popped, fuel, -, -, hn, hrun⟩ := s.runBulk_drainStep false (Nat.sub_le _ s.bridge.buildLen)
  refine ⟨popped, ?_⟩
  rw [hrun, State.runBulk_of_done (State.endDrain_done ..), State.endDrain_withBulk, hn h]

end BrDrain

end Sys2Proof.Machine

namespace Sys2Proof.Proofs

open Sys2Proof.Machine

/-- Settles O53: the drain loop moves `n` bytes, and the state it reaches decides the handover. -/
theorem brDrainFillsAndHandsOver : Obligations.BrDrainFillsAndHandsOver := by
  intro s h hb hok
  refine ⟨s.drainStep false, gate_accepted (h.accepted rfl) _, ?_⟩
  intro u n len gap ready
  obtain ⟨-, hremove⟩ := cursorsOk_iff.1 hok
  obtain ⟨popped, hu⟩ : ∃ popped, u = (s.drained n).endDrain false popped := State.runBulk_brDrain hok
  have hdrained := State.drained_eq hremove n
  have hpacket : (s.drained n).readBytes .build len = _ := State.drained_packet hremove (Nat.min_le_right ..)
  have hlen : (s.drained n).bridge.buildLen = len := by rw [hdrained]
  have hdue : HandoverDue (s.drained n) ↔ ready := by
    rw [hdrained]
    rfl
  have hread : ∀ st a, u.rd st a = (s.drained n).rd st a := fun st a => by rw [hu, State.endDrain_rd]
  refine ⟨by rw [hu, State.endDrain_done], ?srx, ?packet, fun st a hout => ?bytes, fun hready => ?handed,
    fun hready => ?kept, ?frame⟩
  case srx => rw [hu, State.endDrain_srx, State.drained_srx hremove]
  case packet => exact (List.map_congr_left fun a _ => hread .build a).trans hpacket
  case bytes => rw [hread, State.rd_drained hremove, if_neg hout]
  case handed =>
    rw [hu, State.endDrain_of_due (hdue.2 hready), ← hpacket, ← hlen]
    refine ⟨rfl, ?_, rfl⟩
    rw [hdrained]
    rfl
  case kept =>
    rw [hu, State.endDrain_of_not_due (mt hdue.1 hready), State.finishBulk_txPending, State.finishBulk_bridge, hdrained]
    exact ⟨rfl, rfl, rfl⟩
  case frame =>
    rw [hu, State.endDrain_frame, hdrained]
    exact State.clear_bulk_eq hb

end Sys2Proof.Proofs

/-! SUPPORT. The statements on `spec/60_exceptions.md`: illegal words (R337), port permission (R339, R351), the fatal latch
(R344 to R346), precise errors (R343), and what the interrupt port can reach (R86, R351). -/

namespace Sys2Proof.Machine

/-! ## Illegal words (R337) -/

/-- A step whose move is an illegal word puts 7 in ERR of its port (R105, R337). -/
theorem step_illegal {s u : State} {p : Port} {w : Word} {e : DecodeError} (hm : s.nextMove = .command p w u)
    (hd : decode w = .error e) : step s = .next (onlyErr (u.onPort p) 7) := by
  simp only [step, hm, hd, State.illegal_eq]

/-! ## Port permission (R339, R351) -/

/-- The column FGCMD of R351: what the foreground may not run names the ring end that the interrupt port works. -/
theorem permitted_fg_eq_false {i : Instr} :
    permitted i .fg = false ↔
      (∃ b, i = .rbPush 0 b) ∨ i = .rbPop 1 ∨ (∃ o, i = .rbPeek 1 o) ∨ (∃ n, i = .rbPushs 0 n)
        ∨ (∃ n, i = .rbPops 1 n) := by
  cases i <;> simp [permitted, accessOf, Access.allows]

/-- A command that IRQCMD may not run is on FGCMD where it is permitted. -/
theorem port_fg_of_permitted {i : Instr} {s : State} (h : permitted i s.port = true) (hi : permitted i .irq = false) :
    s.port = .fg := by
  cases hp : s.port with
  | fg => rfl
  | irq =>
    rw [hp, hi] at h
    cases h

theorem Accepted.port_fg {i : Instr} {s : State} (ha : Accepted i s) (hi : permitted i .irq = false) : s.port = .fg :=
  port_fg_of_permitted ha.1 hi

/-- Where the permission depends on the ring operand, an operand above 1 passes the port check (R351). -/
theorem permitted_ring_above {ring : Nat} (h : 1 < ring) (p : Port) :
    (∀ b, permitted (.rbPush ring b) p = true) ∧ permitted (.rbPop ring) p = true
    ∧ (∀ o, permitted (.rbPeek ring o) p = true)
    ∧ (p = .fg → (∀ n, permitted (.rbPushs ring n) p = true) ∧ ∀ n, permitted (.rbPops ring n) p = true) := by
  have h0 : ring ≠ 0 := by omega
  have h1 : ring ≠ 1 := by omega
  cases p <;> simp [permitted, accessOf, Access.allows, h0, h1]

/-! ## ERR of a port (R343, R344) -/

@[simp] theorem State.regs_setRegs_same (s : State) (p : Port) (r : PortRegs) : (s.setRegs p r).regs p = r := by
  cases p <;> rfl

theorem onlyErr_err (s : State) (code : Byte) : ((onlyErr s code).regs s.port).err = code := by
  rw [onlyErr, State.regs_setRegs_same]

theorem ErrCode.isFatal_eq (e : ErrCode) : e.isFatal = (e.code == 6) := by cases e <;> rfl

/-- Raising changes ERR, and FATAL for code 6 (R343, R344). -/
theorem State.raise_eq (s : State) (e : ErrCode) :
    s.raise e = { onlyErr s e.code with fatal := s.fatal || e.code == 6 } := by
  rw [← e.isFatal_eq]
  rfl

theorem State.raise_err (s : State) (e : ErrCode) : ((s.raise e).regs s.port).err = e.code := by
  rw [State.raise_eq, onlyErr]
  cases s.port <;> rfl

/-! ## How a command ends (R343) -/

/-- How a command but CTL.RESET ends: in an error it raises, or with FATAL as it was, and then with ERR 0, or 1 for
BufferFull, unless a bulk command is left in progress. -/
inductive Ending (s t : State) : Prop
  | raised (e : ErrCode) (eq : t = s.raise e)
  | completed (fatal : t.fatal = s.fatal) (err : t.bulk = none → (t.regs s.port).err = 0 ∨ (t.regs s.port).err = 1)

/-! ### Micro-steps

A bulk command answers in ERR of FGCMD when it is complete. -/

/-- If no bulk command is left in progress, ERR is 0, or 1 for BufferFull. -/
def BulkAnswered (t : State) : Prop := t.bulk = none → t.fg.err = 0 ∨ t.fg.err = 1

theorem State.finishTick_answered (s : State) : BulkAnswered s.finishTick := fun _ => .inl rfl

theorem State.suspend_answered (s : State) (b : Bulk) : BulkAnswered (s.suspend b) := nofun

/-- The first failed push of RB.PUSHS and BR.DELIVER is their BufferFull; a tick has none (R160, R303, R333). -/
theorem State.endPush_answered (s : State) (inTick full : Bool) (count : Nat) :
    BulkAnswered (s.endPush inTick full count) := by
  cases inTick with
  | true => exact State.finishTick_answered _
  | false =>
    cases full with
    | true => exact fun _ => .inr rfl
    | false => exact fun _ => .inl rfl

theorem State.pushStep_answered (s : State) (inTick : Bool) (rest : List Byte) (count : Nat) :
    BulkAnswered (s.pushStep inTick rest count) := by
  unfold State.pushStep
  cases rest with
  | nil => exact s.endPush_answered inTick false count
  | cons b more =>
    dsimp only
    rcases s.tryPush_cases .stx b with ⟨-, e⟩ | ⟨-, e⟩ <;> rw [e] <;> dsimp only
    · exact State.endPush_answered _ inTick true count
    · split
      · exact State.endPush_answered _ inTick false (count + 1)
      · exact State.suspend_answered _ _

theorem State.popStep_answered (s : State) (max count : Nat) : BulkAnswered (s.popStep max count) := by
  unfold State.popStep
  split
  · exact fun _ => .inl rfl
  · rcases s.tryPop_cases .srx with ⟨-, e⟩ | ⟨-, e⟩ <;> rw [e] <;> dsimp only
    · exact fun _ => .inl rfl
    · split
      · exact fun _ => .inl rfl
      · exact State.suspend_answered _ _

theorem State.tickReceive_answered (s : State) (popped : Bool) : BulkAnswered (s.tickReceive popped) := by
  unfold State.tickReceive
  rcases s.receiveStep with ⟨_ | payload, t⟩ <;> dsimp only
  · exact t.finishTick_answered
  · split
    · exact t.suspend_answered _
    · exact t.pushStep_answered true payload 0

theorem State.endDrain_answered (s : State) (inTick popped : Bool) : BulkAnswered (s.endDrain inTick popped) := by
  cases inTick with
  | true => exact State.tickReceive_answered _ popped
  | false => exact fun _ => .inl rfl

theorem State.drainStep_answered (s : State) (inTick : Bool) : BulkAnswered (s.drainStep inTick) := by
  unfold State.drainStep
  split
  · exact s.endDrain_answered inTick false
  · rcases s.tryPop_cases .srx with ⟨-, e⟩ | ⟨-, e⟩ <;> rw [e] <;> dsimp only
    · exact s.endDrain_answered inTick true
    · split
      · exact State.endDrain_answered _ inTick true
      · exact State.suspend_answered _ _

/-! ### Commands -/

/-- FATAL and the port of the command are as they were. -/
def KeepsLatch (s u : State) : Prop := u.fatal = s.fatal ∧ u.port = s.port

section Ending

variable {s t u : State}

theorem Ending.onlyErr (s : State) {e : ErrCode} (h : e ≠ .invalidBlockSize) : Ending s (onlyErr s e.code) :=
  .raised e (s.raise_eq_onlyErr h).symm

/-- A command that returns a value, once its Operation has left FATAL and the port as they were (R131). -/
theorem Ending.answer (h : KeepsLatch s u) (v : Half) : Ending s (u.answer v) := by
  refine .completed ((State.answer_fatal u v).trans h.1) fun _ => .inl ?_
  rw [State.answer, h.2, State.regs_setRegs_same]

/-- A command that returns no value, likewise (R131). -/
theorem Ending.done (h : KeepsLatch s u) : Ending s u.done := by
  refine .completed ((State.done_fatal u).trans h.1) fun _ => .inl ?_
  rw [State.done, State.setErr, h.2, State.regs_setRegs_same]

/-- A bulk command after its first micro-step, which runs on FGCMD (R82, R351). -/
theorem Ending.bulk (hp : s.port = .fg) (h : BulkEffect u t) (hu : u.fatal = s.fatal) (ht : BulkAnswered t) :
    Ending s t :=
  .completed ((congrArg State.fatal h.same).trans hu) (by rw [hp]; exact ht)

/-- A gate refuses by raising, or the command ends as its Operation does (R104). -/
theorem Ending.of_gate {i : Instr} {op : State → State} (he : gate i op s = .next t)
    (hop : Accepted i s → Ending s (op s)) : Ending s t := by
  obtain ⟨-, rfl⟩ | ⟨-, -, -, rfl⟩ | ⟨ha, rfl⟩ := gate_cases he
  · exact .onlyErr s (e := .roleViolation) (by decide)
  · exact .onlyErr s (e := .fatalLatched) (by decide)
  · exact hop ha

/-- The interleaver's checks, then its operation (R193). -/
theorem Ending.ilvCheck {op : State → State} (hop : Ending s (op s)) (n : Nat) (inRange : Bool) :
    Ending s (s.ilvCheck n inRange op) := by
  unfold State.ilvCheck
  split
  · exact .raised _ rfl
  · split
    · exact .raised _ rfl
    · exact hop

/-- The ring operand's range check, then its operation (R107). -/
theorem Ending.withRing {op : Ring → State → State} (hop : ∀ r, Ending s (op r s)) (ring : Nat) :
    Ending s (s.withRing ring op) := by
  unfold State.withRing
  split
  · exact hop _
  · exact .raised _ rfl

theorem KeepsLatch.refl (s : State) : KeepsLatch s s := ⟨rfl, rfl⟩

theorem State.setCsr_keepsLatch {r : Nat} {v : Half} (h : s.setCsr r v = some u) : KeepsLatch s u := by
  unfold State.setCsr at h
  split at h <;> cases h <;> exact .refl s

theorem State.scatterBlk_keepsLatch (s : State) (n k : Nat) (val : Byte) : KeepsLatch s (s.scatterBlk n k val) :=
  List.foldlRecOn (motive := KeepsLatch s) _ _ (.refl s) fun _ h _ _ => h

theorem State.storeFrame_keepsLatch (s : State) (radio block : List Byte) :
    KeepsLatch s (s.storeFrame radio block) := by
  rw [State.storeFrame_eq]
  exact .refl s

theorem State.storeDeframed_keepsLatch (s : State) (d : Deframed) : KeepsLatch s (s.storeDeframed d) := by
  rw [State.storeDeframed_eq]
  exact .refl s

theorem State.ringPut_keepsLatch (s : State) (r : Ring) (b : Byte) : KeepsLatch s (s.ringPut r b) := by
  cases r <;> exact .refl s

theorem State.setCursors_keepsLatch (s : State) (r : Ring) (c : Cursors) : KeepsLatch s (s.setCursors r c) := by
  cases r <;> exact .refl s

/-! One lemma per command with checks or cases of its own. -/

theorem Ending.of_execMemRd {sp addr : Nat} (he : execMemRd sp addr s = .next t) : Ending s t := by
  unfold execMemRd at he
  refine .of_gate he fun _ => ?_
  split
  · exact .answer (.refl s) _
  · exact .raised _ rfl

theorem Ending.of_execMemWr {sp addr : Nat} {val : Byte} (he : execMemWr sp addr val s = .next t) : Ending s t := by
  unfold execMemWr at he
  refine .of_gate he fun _ => ?_
  split
  · exact .done (.refl s)
  · exact .raised _ rfl

theorem Ending.of_execCfgWr {r : Nat} {imm : Half} (he : execCfgWr r imm s = .next t) : Ending s t := by
  unfold execCfgWr at he
  refine .of_gate he fun _ => ?_
  split
  · exact .done (State.setCsr_keepsLatch ‹_›)
  · exact .raised _ rfl

theorem Ending.of_execCfgRd {r : Nat} (he : execCfgRd r s = .next t) : Ending s t := by
  unfold execCfgRd at he
  refine .of_gate he fun _ => ?_
  split
  · exact .answer (.refl s) _
  · exact .raised _ rfl

theorem Ending.of_execIlvSetbit {n idx : Nat} {v : Bool} (he : execIlvSetbit n v idx s = .next t) : Ending s t := by
  unfold execIlvSetbit at he
  refine .of_gate he fun _ => .ilvCheck ?_ n _
  exact .done (.refl s)

theorem Ending.of_execIlvSetbyte {n k : Nat} {val : Byte} (he : execIlvSetbyte n k val s = .next t) : Ending s t := by
  unfold execIlvSetbyte at he
  refine .of_gate he fun _ => .ilvCheck ?_ n _
  exact .done (s.scatterBlk_keepsLatch n k val)

theorem Ending.of_execFrmFrame {type : Byte} {len : Nat} (he : execFrmFrame type len s = .next t) : Ending s t := by
  unfold execFrmFrame at he
  refine .of_gate he fun _ => ?_
  split
  · exact .raised _ rfl
  · exact .answer (s.storeFrame_keepsLatch _ _) _

theorem Ending.of_execFrmDeframe (he : execFrmDeframe s = .next t) : Ending s t := by
  unfold execFrmDeframe at he
  refine .of_gate he fun _ => ?_
  split
  · exact .raised _ rfl
  · split
    · exact .raised _ rfl
    · exact .raised _ rfl
    · exact .answer (s.storeDeframed_keepsLatch _) _

theorem Ending.of_execSchTick (he : execSchTick s = .next t) : Ending s t := by
  unfold execSchTick at he
  refine .of_gate he fun ha => ?_
  split
  · exact .raised _ rfl
  · rw [State.bridgeTimer_eq]
    exact .bulk (ha.port_fg rfl) (State.drainStep_effect _ true) rfl (State.drainStep_answered _ true)

theorem Ending.of_execSchHbreq (he : execSchHbreq s = .next t) : Ending s t := by
  unfold execSchHbreq at he
  exact .of_gate he fun _ => .done (.refl s)

theorem Ending.of_execSchHbclr (he : execSchHbclr s = .next t) : Ending s t := by
  unfold execSchHbclr at he
  exact .of_gate he fun _ => .done (.refl s)

theorem Ending.of_execSchRpclr (he : execSchRpclr s = .next t) : Ending s t := by
  unfold execSchRpclr at he
  exact .of_gate he fun _ => .done (.refl s)

theorem Ending.of_execSchSubmit {type : Byte} {len : Nat} (he : execSchSubmit type len s = .next t) : Ending s t := by
  unfold execSchSubmit at he
  refine .of_gate he fun _ => ?_
  split
  · exact .raised _ rfl
  · split
    · exact .raised _ rfl
    · exact .done (.refl s)

/-- A failed push is the one error of a command with an effect: it completes with ERR 1 (R153, R343). -/
theorem Ending.of_execRbPush {ring : Nat} {byte : Byte} (he : execRbPush ring byte s = .next t) : Ending s t := by
  unfold execRbPush at he
  refine .of_gate he fun _ => .withRing (fun r => ?_) ring
  rcases s.tryPush_cases r byte with ⟨-, e⟩ | ⟨-, e⟩ <;> rw [e] <;> dsimp only
  · exact .completed (by simp) fun _ => .inr (by rw [State.regs_setRegs_same]; rfl)
  · exact .answer (s.ringPut_keepsLatch r byte) 1

theorem Ending.of_execRbPop {ring : Nat} (he : execRbPop ring s = .next t) : Ending s t := by
  unfold execRbPop at he
  refine .of_gate he fun _ => .withRing (fun r => ?_) ring
  rcases s.tryPop_cases r with ⟨-, e⟩ | ⟨-, e⟩ <;> rw [e]
  · exact .raised _ rfl
  · exact .answer (s.setCursors_keepsLatch r _) _

theorem Ending.of_execRbPeek {ring offset : Nat} (he : execRbPeek ring offset s = .next t) : Ending s t := by
  unfold execRbPeek at he
  refine .of_gate he fun _ => .withRing (fun r => ?_) ring
  split
  · exact .raised _ rfl
  · exact .answer (.refl s) _

theorem Ending.of_execRbReset {ring : Nat} (he : execRbReset ring s = .next t) : Ending s t := by
  unfold execRbReset at he
  refine .of_gate he fun _ => .withRing (fun r => ?_) ring
  exact .done (s.setCursors_keepsLatch r _)

/-- Every command but CTL.RESET raises an error, or leaves FATAL as it was and ends with ERR 0 or 1 (R131, R343). -/
theorem Ending.of_exec {i : Instr} (hctl : i ≠ .ctlReset) (he : exec i s = .next t) : Ending s t := by
  cases i with
  | nop => exact .of_gate he fun _ => .done (.refl s)
  | memRd sp addr => exact .of_execMemRd he
  | memWr sp addr val => exact .of_execMemWr he
  | cfgWr r imm => exact .of_execCfgWr he
  | cfgRd r => exact .of_execCfgRd he
  | ctlReset => exact absurd rfl hctl
  | ilvGetbit n idx => exact .of_gate he fun _ => .ilvCheck (.answer (.refl s) _) n _
  | ilvSetbit n v idx => exact .of_execIlvSetbit he
  | ilvGetbyte n k => exact .of_gate he fun _ => .ilvCheck (.answer (.refl s) _) n _
  | ilvSetbyte n k val => exact .of_execIlvSetbyte he
  | ilvPhys n idx => exact .of_gate he fun _ => .ilvCheck (.answer (.refl s) _) n _
  | frmFrame type len => exact .of_execFrmFrame he
  | frmDeframe => exact .of_execFrmDeframe he
  | schTick => exact .of_execSchTick he
  | schHbreq => exact .of_execSchHbreq he
  | schHbclr => exact .of_execSchHbclr he
  | schSubmit type len => exact .of_execSchSubmit he
  | schRpclr => exact .of_execSchRpclr he
  | rbPush ring byte => exact .of_execRbPush he
  | rbPop ring => exact .of_execRbPop he
  | rbPeek ring offset => exact .of_execRbPeek he
  | rbFree ring => exact .of_gate he fun _ => .withRing (fun _ => .answer (.refl s) _) ring
  | rbUsed ring => exact .of_gate he fun _ => .withRing (fun _ => .answer (.refl s) _) ring
  | rbReset ring => exact .of_execRbReset he
  | rbPushs ring len =>
    exact .of_gate he fun ha => .withRing
      (fun _ => .bulk (ha.port_fg rfl) (s.pushStep_effect false _ 0).1 rfl (s.pushStep_answered false _ 0)) ring
  | rbPops ring max =>
    exact .of_gate he fun ha => .withRing
      (fun _ => .bulk (ha.port_fg rfl) (s.popStep_effect max 0) rfl (s.popStep_answered max 0)) ring
  | brDrain =>
    exact .of_gate he fun ha => .bulk (ha.port_fg rfl) (s.drainStep_effect false) rfl (s.drainStep_answered false)
  | brRoom => exact .of_gate he fun _ => .answer (.refl s) _
  | brDeliver len =>
    exact .of_gate he fun ha =>
      .bulk (ha.port_fg rfl) (s.pushStep_effect false _ 0).1 rfl (s.pushStep_answered false _ 0)

/-- Every command raises an error, leaves FATAL as it was, or is CTL.RESET on FGCMD. -/
theorem exec_ending {i : Instr} (he : exec i s = .next t) :
    Ending s t ∨ (i = .ctlReset ∧ s.port = .fg ∧ t = s.softReset) := by
  by_cases hctl : i = .ctlReset
  · subst hctl
    obtain ⟨-, rfl⟩ | ⟨-, -, -, rfl⟩ | ⟨ha, rfl⟩ := gate_cases he
    · exact .inl (.onlyErr s (e := .roleViolation) (by decide))
    · exact .inl (.onlyErr s (e := .fatalLatched) (by decide))
    · exact .inr ⟨rfl, ha.port_fg rfl, rfl⟩
  · exact .inl (.of_exec hctl he)

end Ending

/-! ## The interrupt port (R86, R351) -/

/-- What a command on IRQCMD can change beside the bytes of SRX: its result pair, CNT_RXOVF and two cursors. -/
theorem irq_frame {i : Instr} {s t : State} (hp : s.port = .irq) (he : exec i s = .next t) :
    { t with
      irq := s.irq
      cnt := { t.cnt with rxOvf := s.cnt.rxOvf }
      srx := { t.srx with insert := s.srx.insert }
      stx := { t.stx with remove := s.stx.remove }
      mem := s.mem } = s := by
  obtain ⟨code, -, rfl⟩ | ⟨v, rfl⟩ | ⟨b, -, rfl⟩ | ⟨-, rfl⟩ | ⟨-, rfl⟩ := irq_cases hp he
  · rw [onlyErr, hp]
    rfl
  · rw [State.answer, hp]
    rfl
  · rw [State.answer, show (s.ringPut .srx b).port = .irq from hp]
    rfl
  · rfl
  · rw [State.answer, show (s.ringDrop .stx).port = .irq from hp]
    rfl

/-- A command on IRQCMD stores at most one byte, at the insert cursor of SRX. -/
theorem irq_bytes {i : Instr} {s t : State} (hp : s.port = .irq) (he : exec i s = .next t) :
    SameBytesBut (fun st a => st = .srx ∧ a = s.srx.insert) s t := by
  intro st a hout
  obtain ⟨code, -, rfl⟩ | ⟨v, rfl⟩ | ⟨b, -, rfl⟩ | ⟨-, rfl⟩ | ⟨-, rfl⟩ := irq_cases hp he
  · exact State.setRegs_rd ..
  · exact State.answer_rd ..
  · rw [State.answer_rd, State.rd_ringPut]
    exact if_neg hout
  · exact (State.setRegs_rd ..).trans (State.countOverflow_rd ..)
  · rw [State.answer_rd, State.ringDrop_rd]

/-! ## The fatal latch (R344, R346) -/

/-- A command on FGCMD that is not CTL.RESET sets the latch by InvalidBlockSize or leaves it (R336, R344). -/
theorem Ending.latch {s t : State} (h : Ending s t) (hp : s.port = .fg) :
    t.fatal = s.fatal ∨ (t.fatal = true ∧ t.fg.err = 6) := by
  cases h with
  | completed fatal err => exact .inl fatal
  | raised e eq =>
    subst eq
    by_cases he : e = .invalidBlockSize
    · subst he
      rw [State.raise_invalidBlockSize_fg hp]
      exact .inr ⟨rfl, rfl⟩
    · rw [State.raise_eq_onlyErr s he]
      exact .inl (State.setRegs_fatal ..)

theorem State.nextMove_fatal (s : State) : s.nextMove.state.fatal = s.fatal := by
  obtain ⟨program, preempt, e⟩ := s.nextMove_state
  rw [e]

/-- One step leaves the latch, sets it by InvalidBlockSize on FGCMD, or is one of the two resets (R344, R346). -/
theorem step_latch {s t : State} (hs : step s = .next t) :
    t.fatal = s.fatal ∨ (t.fatal = true ∧ t.fg.err = 6) ∨ (t.fatal = false ∧ ResetMove s) := by
  have hmove := s.nextMove_fatal
  obtain ⟨u, hm, rfl⟩ | ⟨u, hm, rfl⟩ | ⟨u, hm, rfl⟩ | ⟨p, w, u, i, hm, hd, he⟩ | ⟨p, w, u, e, hm, -, rfl⟩ :=
    step_cases hs <;> rw [hm] at hmove
  · exact .inl hmove
  · exact .inl ((congrArg State.fatal u.microStep_effect.same).trans hmove)
  · exact .inr (.inr ⟨rfl, .inl ⟨u, hm⟩⟩)
  · cases p with
    | irq => exact .inl ((congrArg State.fatal (irq_frame rfl he)).trans hmove)
    | fg =>
      rcases exec_ending he with h | ⟨rfl, -, rfl⟩
      · rw [← hmove]
        exact (h.latch rfl).imp_right .inl
      · exact .inr (.inr ⟨rfl, .inr ⟨w, u, hm, hd⟩⟩)
  · rw [State.illegal_eq]
    exact .inl ((State.setRegs_fatal ..).trans hmove)

/-! ## The four commands that run while FATAL is set (R345) -/

theorem exemptWhenFatal_eq_false {i : Instr} (hnop : i ≠ .nop) (hcfgRd : ∀ r, i ≠ .cfgRd r)
    (hmemRd : ∀ sp a, i ≠ .memRd sp a) (hctl : i ≠ .ctlReset) : exemptWhenFatal i = false := by
  cases i with
  | nop => exact absurd rfl hnop
  | memRd sp addr => exact absurd rfl (hmemRd sp addr)
  | cfgRd r => exact absurd rfl (hcfgRd r)
  | ctlReset => exact absurd rfl hctl
  | _ => rfl

/-- Each of the four ends in success or in a RangeError of its own, in every state (R130, R132, R135, R136). -/
theorem exec_exempt_err {i : Instr} {s t : State} (hperm : permitted i s.port = true)
    (hi : i = .nop ∨ (∃ r, i = .cfgRd r) ∨ (∃ sp a, i = .memRd sp a) ∨ i = .ctlReset) (he : exec i s = .next t) :
    (t.regs s.port).err = 0 ∨ (t.regs s.port).err = 8 := by
  obtain rfl | ⟨r, rfl⟩ | ⟨sp, a, rfl⟩ | rfl := hi
  · cases he.symm.trans (gate_accepted ⟨rfl, .inr rfl⟩ _)
    exact .inl (onlyErr_err s 0)
  · have hp := port_fg_of_permitted hperm rfl
    cases hv : s.csr r with
    | some v =>
      cases he.symm.trans (exec_cfgRd_of_some hp hv)
      exact .inl (by rw [hp]; rfl)
    | none =>
      cases he.symm.trans (exec_cfgRd_of_none hp hv)
      exact .inr (onlyErr_err s 8)
  · have hp := port_fg_of_permitted hperm rfl
    cases hb : s.spaceRead sp a with
    | some b =>
      cases he.symm.trans (exec_memRd_of_some hp hb)
      exact .inl (by rw [hp]; rfl)
    | none =>
      cases he.symm.trans (exec_memRd_of_none hp hb)
      exact .inr (onlyErr_err s 8)
  · have hp := port_fg_of_permitted hperm rfl
    cases he.symm.trans (exec_ctlReset hp)
    exact .inl (by rw [hp]; rfl)

end Sys2Proof.Machine

namespace Sys2Proof.Proofs

open Sys2Proof.Machine

/-- Settles O6: an illegal word is the next move, outside a bulk command or chosen to go first in one. -/
theorem illegalWordChangesOnlyErr : Obligations.IllegalWordChangesOnlyErr := fun _ _ _ _ hd =>
  ⟨fun _ hb hp => step_illegal (State.nextMove_command hb hp) hd,
    fun _ _ hb hp hc => step_illegal (State.nextMove_irq_goes hb hp hc) hd⟩

/-- Settles O8, column by column of the port table. -/
theorem portPermissionTable : Obligations.PortPermissionTable := by
  refine fun i => ⟨⟨permitted_irq, ?_⟩, permitted_fg_eq_false⟩
  rintro (rfl | ⟨r, rfl⟩ | ⟨r, rfl⟩ | ⟨r, b, rfl, hr⟩ | ⟨r, rfl, hr⟩ | ⟨r, o, rfl, hr⟩)
  · rfl
  · rfl
  · rfl
  · exact bne_iff_ne.2 hr
  · exact bne_iff_ne.2 hr
  · exact bne_iff_ne.2 hr

/-- Settles O9: the port check comes before every other, and a ring operand above 1 passes it and fails the range check. -/
theorem roleViolationChangesOnlyErr : Obligations.RoleViolationChangesOnlyErr := by
  refine ⟨fun i s h => exec_violation h, fun ring s h hf => ?_⟩
  obtain ⟨hpush, hpop, hpeek, hbulk⟩ := permitted_ring_above h s.port
  exact ⟨fun b => gate_withRing_above ⟨hpush b, .inl hf⟩ h _, gate_withRing_above ⟨hpop, .inl hf⟩ h _,
    fun o => gate_withRing_above ⟨hpeek o, .inl hf⟩ h _,
    fun hp n => gate_withRing_above ⟨(hbulk hp).1 n, .inl hf⟩ h _,
    fun hp n => gate_withRing_above ⟨(hbulk hp).2 n, .inl hf⟩ h _⟩

/-- Settles O10: the gate refuses what is not exempt, and the four exempt commands end with ERR 0 or 8. -/
theorem fatalRefusesAllButFour : Obligations.FatalRefusesAllButFour := by
  intro i s hf hperm
  refine ⟨fun hnop hcfg hmem hctl => exec_refused hperm hf (exemptWhenFatal_eq_false hnop hcfg hmem hctl), ?_⟩
  intro hi t he h10
  rcases exec_exempt_err hperm hi he with h | h
  all_goals exact absurd (h.symm.trans h10) (by decide)

/-- Settles O11, by what one step can do to the latch. -/
theorem fatalLatchSetAndCleared : Obligations.FatalLatchSetAndCleared := by
  intro s t hs
  rcases step_latch hs with h | ⟨h, herr⟩ | ⟨h, hreset⟩
  · exact ⟨fun hclear hset => by simp [h, hclear] at hset, fun hset hclear => by simp [h, hset] at hclear⟩
  · exact ⟨fun _ _ => herr, fun _ hclear => by simp [h] at hclear⟩
  · exact ⟨fun _ hset => by simp [h] at hset, fun _ _ => hreset⟩

/-- Settles O13: a command that ends with an ERR other than 0 and 1 raised its error. -/
theorem errorsArePrecise : Obligations.ErrorsArePrecise := by
  intro i s t _ he hb h0 h1
  rcases exec_ending he with (⟨e, rfl⟩ | ⟨-, herr⟩) | ⟨-, hp, rfl⟩
  · rw [State.raise_err, State.raise_eq]
  · exact absurd (herr hb) (not_or.2 ⟨h0, h1⟩)
  · exact absurd (by rw [hp]; rfl) h0

/-- Settles O58, by the five things a command on IRQCMD can do. -/
theorem interruptPortIsConfined : Obligations.InterruptPortIsConfined := fun _ _ _ hp he =>
  ⟨irq_frame hp he, irq_bytes hp he⟩

end Sys2Proof.Proofs

/-! SUPPORT. The statement on `spec/70_reset_and_hazards.md`: pin RESET, outside a bulk command and inside one (R370, R371,
R373). -/

namespace Sys2Proof.Machine

/-! ## Pin RESET (R370, R371, R373) -/

section PinReset

variable {s u : State} {b : Bulk} {rest : List Input} {more : List Bool}

/-- Outside a bulk command a presented pin RESET is the next move, and it is used up (R370). -/
theorem State.nextMove_reset (hb : s.bulk = none) (hp : s.env.program = .hardwareReset :: rest) :
    s.nextMove = .reset { s with env := { s.env with program := rest } } := by
  simp only [State.nextMove, hb, hp, State.takeInput]

/-- A pin RESET that is chosen to go first interrupts the bulk command; it and the choice are used up (R370, log 6). -/
theorem State.nextMove_reset_goes (hb : s.bulk = some b) (hp : s.env.program = .hardwareReset :: rest)
    (hc : s.env.preempt = true :: more) :
    s.nextMove = .reset { s with env := { s.env with program := rest, preempt := more } } := by
  simp [State.nextMove, hb, hp, State.interleave, Input.mayPreempt, hc, State.takeInput]

/-- A step whose move is pin RESET leaves what pin RESET leaves (R371). -/
theorem step_reset (hm : s.nextMove = .reset u) : step s = .next u.hardwareReset := by
  simp only [step, hm]

/-- Pin RESET leaves the values of R371, whatever state it finds. -/
theorem hasResetValues_hardwareReset (s : State) : HasResetValues s.hardwareReset :=
  { hasResetValues_resetWith s.cfg with }

end PinReset

end Sys2Proof.Machine

namespace Sys2Proof.Proofs

open Sys2Proof.Machine

/-- Settles O21: outside a bulk command, and chosen to go first in one, pin RESET is the next move, and what it leaves is
the reset state with no byte of memory known. -/
theorem hardwareResetRestoresTheResetState : Obligations.HardwareResetRestoresTheResetState := fun _ _ hp =>
  ⟨fun hb => ⟨_, step_reset (State.nextMove_reset hb hp), hasResetValues_hardwareReset _, rfl, rfl, rfl⟩,
    fun _ _ hb hc =>
      ⟨_, step_reset (State.nextMove_reset_goes hb hp hc), hasResetValues_hardwareReset _, rfl, rfl, rfl⟩⟩

end Sys2Proof.Proofs
